-- ==== Sys2Proof/Word.lean ====
section
/-! DEFINITION. The two word types: the byte every value of the block is (00_scope.md R8 `BYTE_WIDTH` = 8, R12;
20_memory.md R53, R56) and the 32-bit operation word (30_encoding.md R70). -/

namespace Sys2Proof

/-- A byte: the width of every value the block stores or moves (R8, R12, R56). -/
abbrev Byte := BitVec 8

/-- An operation word (R70). -/
abbrev Word := BitVec 32

end Sys2Proof
end

