-- ==== Sys2Proof/Config.lean ====
section
/-! DEFINITION. The implementation parameters of 00_scope.md R8, their well-formedness (R9) and the constants derived
from them (R10). A configuration is fixed when the block is constructed (R11). `BYTE_WIDTH` and `CHANNELS` have one
legal value each (8 and 2), so they are types here (`Byte`, `Machine.Channel`) and not fields. -/

namespace Sys2Proof

/-- `RX_MODE`: the synchronous-callback or the queued receive path (R3, R8). -/
inductive RxMode where
  | sync
  | queued
  deriving DecidableEq, Repr

/-- The parameters of R8 that have more than one legal value. -/
structure Config where
  /-- `FIELD_COUNT`: bytes of a command frame, 2 or 3. -/
  fieldCount : Nat
  /-- `RX_MODE`. -/
  rxMode : RxMode
  /-- `LOCAL_BITS`: local sub-address bits, 1 or 2. -/
  localBits : Nat
  /-- `CQ_CAPACITY`: bytes the Command Queue can hold. -/
  cqCapacity : Nat
  /-- `RXQ_CAPACITY`: commands the receive queue can hold. -/
  rxqCapacity : Nat
  /-- `READ_AUTO_INCREMENT`: what "the next exposed-register value" means. -/
  readAutoIncrement : Bool
  /-- `RESP_ADDR_BASE`: read by the two-node composition only (R255). -/
  respAddrBase : BitVec 7
  deriving DecidableEq, Repr

namespace Config

/-- R9: the five conditions of a well-formed configuration, in the rule's order. -/
def wf (c : Config) : Bool :=
  (c.fieldCount == 2 || c.fieldCount == 3) &&
  (c.localBits == 1 || c.localBits == 2) &&
  decide (2 * c.fieldCount ≤ c.cqCapacity) &&
  decide (1 ≤ c.rxqCapacity) &&
  !(c.fieldCount == 3 && c.rxMode == .sync)

/-- R10: `REG_COUNT = 2^LOCAL_BITS`. -/
def regCount (c : Config) : Nat := 2 ^ c.localBits

/-- R10: `LMASK = REG_COUNT - 1`. -/
def lmask (c : Config) : Nat := c.regCount - 1

/-- R8: `RESP_ADDR_BASE` is a 7-bit value whose low `LOCAL_BITS` bits are 0 (no condition of R9; the composition of
R255 asks for it). -/
def respBaseLegal (c : Config) : Bool := c.respAddrBase.toNat % c.regCount == 0

/-- The reference values of R8 (95_test_vectors.md section 0, configuration REF). -/
def reference : Config where
  fieldCount := 2
  rxMode := .sync
  localBits := 1
  cqCapacity := 8
  rxqCapacity := 4
  readAutoIncrement := true
  respAddrBase := 0x06#7

end Config

end Sys2Proof
end

