-- ==== Sys2Proof/Machine/State.lean ====
section
/-! DEFINITION. The state record of 10_state.md R20, the observation of 10_state.md R39 and 30_encoding.md R84, R85,
the stops of the model, the power-on state (70_reset_and_hazards.md R270) and State.reset. -/

namespace Sys2Proof.Machine

/-! ## Enumerations of R20 -/

/-- `cs`, the TX codec's field position (R22). -/
inductive FieldPos where
  | noCmd
  | addrP
  | kindP
  | valueP
  | complete
  deriving DecidableEq, Repr

/-- `ini_state`, the initiator's transaction state (R23). Idle and address-phase are one state. -/
inductive IniState where
  | addr
  | dataOut
  | prepIn
  | dataIn
  | stop
  | done
  deriving DecidableEq, Repr

/-- `rs_phase`, the responder's transaction tracking (R26). -/
inductive RsPhase where
  | none
  | addr
  | data
  deriving DecidableEq, Repr

/-- `rs_dir` (R27): 0 = write, the initiator sends data; 1 = read, the responder supplies data. -/
inductive Direction where
  | write
  | read
  deriving DecidableEq, Repr

/-- `ch_handler`, the kind of the registered command handler (R31). -/
inductive HandlerKind where
  | none
  | pwm
  | external
  deriving DecidableEq, Repr

/-- The index of one of the two channels (R8 `CHANNELS` = 2): the values of `ds_sel` (R36) and `ds_phase` (R37). -/
inductive Channel where
  | ch0
  | ch1
  deriving DecidableEq, Repr

/-- The fault codes 1 to 8 of 60_exceptions.md R241; code 0, no fault, is the absence of a record. -/
inductive FaultCode where
  | cqUnderflow
  | cqOverflow
  | rxqUnderflow
  | rxqOverflow
  | armBusy
  | noCmdHandler
  | noResultHandler
  | illegalOp
  deriving DecidableEq, Repr

/-! ## Records of R20 -/

/-- A received command (R33): the bytes (address, kind, value). -/
structure Command where
  address : Byte
  kind : Byte
  value : Byte
  deriving DecidableEq, Repr

/-- One byte per channel: `ds_pending[0..1]` (R34) and `ds_current[0..1]` (R35). -/
structure PerChannel where
  ch0 : Byte
  ch1 : Byte
  deriving DecidableEq, Repr

/-- A recorded fault (R38): its code and the operation word that raised it. -/
structure FaultRecord where
  code : FaultCode
  word : Word
  deriving DecidableEq, Repr

/-! ## Observation (R39, R84, R85) -/

/-- The output events of R84. -/
inductive OutEvent where
  /-- The initiator asserts a start (or repeated-start) condition. -/
  | busStart
  /-- The initiator asserts the stop condition. -/
  | busStop
  /-- The initiator places a byte on the bus. -/
  | busTx (b : Byte)
  /-- The initiator asserts "receive enable". -/
  | busRcen
  /-- The initiator asserts a negative-acknowledge after a received byte. -/
  | busNack
  /-- The registered result handler is invoked with (address, value). -/
  | result (a v : Byte)
  /-- The responder installs a byte for output and releases its clock-stretch hold. -/
  | respTx (v : Byte)
  /-- The registered command handler is invoked with (local address, value). -/
  | cmd (l v : Byte)
  deriving DecidableEq, Repr

/-- The four kinds of returned value (R85). -/
inductive Ret where
  | none
  | bool (b : Bool)
  | byte (b : Byte)
  | command (c : Command)
  deriving DecidableEq, Repr

/-- The observation of one operation (R39): its output events in emission order and its returned value. -/
structure Observation where
  events : List OutEvent
  ret : Ret
  deriving DecidableEq, Repr

/-! ## State -/

/-- One block: the record of R20, and the model's own fields `cfg`, `ops` and `trace` (log entries 1, 2, 3). -/
structure State where
  /-- MODEL's own: the configuration the block was constructed with (R11: fixed, no operation writes it). -/
  cfg : Config
  /-- `cq`: the Command Queue, oldest byte first (R21). -/
  cq : List Byte
  /-- `cs`: the TX codec's field position (R22). -/
  cs : FieldPos
  /-- `ini_state` (R23). -/
  iniState : IniState
  /-- `ini_addr`: the raw address byte of the current transaction (R24). -/
  iniAddr : Byte
  /-- `rh_set`: a result handler is registered (R25). -/
  rhSet : Bool
  /-- `rs_phase` (R26). -/
  rsPhase : RsPhase
  /-- `rs_dir` (R27). -/
  rsDir : Direction
  /-- `rs_local`: the decoded local sub-address (R28). -/
  rsLocal : Byte
  /-- `rs_rdptr`: the table entry most recently supplied on a read (R29). -/
  rsRdptr : Byte
  /-- `regs[0..REG_COUNT-1]`: the Exposed Register Table (R30). -/
  regs : List Byte
  /-- `ch_handler` (R31). -/
  chHandler : HandlerKind
  /-- `st_valid` (R32). -/
  stValid : Bool
  /-- `st_addr` (R32). -/
  stAddr : Byte
  /-- `st_kind` (R32). -/
  stKind : Byte
  /-- `st_value` (R32). -/
  stValue : Byte
  /-- `st_nd`: data bytes since R.ONADDR, saturating at 255 (R32). -/
  stNd : Byte
  /-- `rxq`: the receive queue, oldest first (R33). -/
  rxq : List Command
  /-- `ds_pending` (R34). -/
  dsPending : PerChannel
  /-- `ds_current` (R35). -/
  dsCurrent : PerChannel
  /-- `ds_sel` (R36). -/
  dsSel : Channel
  /-- `ds_phase`: the channel that drives in the current period (R37). -/
  dsPhase : Channel
  /-- `fault`: the first fault raised, if any (R38). -/
  fault : Option FaultRecord
  /-- MODEL's own: the operation words the host has issued and the block has not performed, oldest first (R15, R61). -/
  ops : List Word
  /-- MODEL's own: the observations of the operations performed so far, oldest first (R39). -/
  trace : List Observation
  deriving DecidableEq, Repr

/-! ## Stops -/

/-- Reasons a step can stop with a fault: none. Every precondition violation the spec names is a FAULT RECORDED IN
STATE (60_exceptions.md R240 to R243), so it is a next state here, and the spec gives every operation word in every
state of the block an effect (30_encoding.md R74, R77). -/
inductive Fault
  deriving DecidableEq, Repr

/-- Reasons the model has no meaning for a step. -/
inductive Refusal where
  /-- Raised by an arm of exec whose instruction has no meaning yet (no arm is one). Safe. -/
  | notModelled (mnemonic : String)
  /-- Raised by every operation at the interface when the configuration is not well-formed: "A model refuses a
  configuration that is not well-formed and has no machine for it" (00_scope.md R9). Safe: no such block exists. -/
  | illFormedConfig
  /-- Raised by every operation at the interface when an element of the record is outside the legal values of
  10_state.md R20 (93_implementation_defined.md I11, 92_eei_decisions.md D39: "refuses a state holding one"). Safe: no
  operation leads from a legal state to such a record. -/
  | illegalState
  deriving DecidableEq, Repr

/-! ## Power-on reset -/

/-- R270: the POR column of R20, for a block with configuration `c`; nothing issued, nothing observed. -/
def State.por (c : Config) : State where
  cfg := c
  cq := []
  cs := .noCmd
  iniState := .addr
  iniAddr := 0
  rhSet := false
  rsPhase := .none
  rsDir := .write
  rsLocal := 0
  rsRdptr := 0
  regs := List.replicate c.regCount 0
  chHandler := .none
  stValid := false
  stAddr := 0
  stKind := 0
  stValue := 0
  stNd := 0
  rxq := []
  dsPending := ⟨0, 0⟩
  dsCurrent := ⟨0, 0⟩
  dsSel := .ch0
  dsPhase := .ch0
  fault := none
  ops := []
  trace := []

/-- R9, R270: POR constructs a block from a well-formed configuration and refuses any other. -/
def State.construct (c : Config) : Except Refusal State :=
  if c.wf then .ok (State.por c) else .error .illFormedConfig

/-- The block right after power-on with the reference configuration of R8 (log entry 1). -/
def State.reset : State := State.por Config.reference

end Sys2Proof.Machine
end

