-- ==== Sys2Proof/Machine/Flags.lean ====
section
/-! DEFINITION. The Booleans the operations compute. The block has no condition codes (10_state.md R42): its one-bit
flags are elements of State, and `Q.ISEMPTY`, `C.AVAIL`, `C.SENT`, `R.HAS` and `D.TICK` return a Boolean. -/

namespace Sys2Proof.Machine

/-- `len(cq) = 0` (R100). -/
def State.cqEmpty (s : State) : Bool := s.cq.isEmpty

/-- R22: the codec is idle when `cs` is NOCMD or COMPLETE, mid-command otherwise. -/
def FieldPos.idle : FieldPos → Bool
  | .noCmd => true
  | .complete => true
  | .addrP => false
  | .kindP => false
  | .valueP => false

/-- `cs = COMPLETE` (R122). -/
def State.sent (s : State) : Bool := s.cs == .complete

/-- `len(rxq) > 0` (R143). -/
def State.rxPending (s : State) : Bool := !s.rxq.isEmpty

/-- The Boolean of a channel index: true for channel 1 (R202). -/
def Channel.isOne : Channel → Bool
  | .ch0 => false
  | .ch1 => true

/-- R123, R124: the codec is idle, or the queue is empty. -/
def State.prepRearms (s : State) : Bool := s.cs.idle || s.cqEmpty

/-- R142: the staging command is completed: opened by R.ONADDR, with at least `FIELD_COUNT - 1` data bytes since. -/
def State.stagingComplete (s : State) : Bool := s.stValid && decide (s.cfg.fieldCount - 1 ≤ s.stNd.toNat)

/-- R160: a start condition may be armed from ADDR and DONE only. -/
def IniState.armable : IniState → Bool
  | .addr => true
  | .done => true
  | .dataOut => false
  | .prepIn => false
  | .dataIn => false
  | .stop => false

end Sys2Proof.Machine
end

