-- ==== Sys2Proof/Syntax.lean ====
section
/-! DEFINITION. The operations of the block: one constructor per row of the opcode map (30_encoding.md R73), with the
row's operand bytes in A, B, C order. Operands are raw bytes, as R71 decodes them; which values an operation admits is
checked after decoding (R75, R76; WellFormed.lean). -/

namespace Sys2Proof

/-- The 28 rows of R73. -/
inductive Instr where
  /-- `Q.ISEMPTY` (0x01, R100). -/
  | qIsEmpty
  /-- `Q.ENQ b` (0x02, R101). -/
  | qEnq (b : Byte)
  /-- `Q.DEQ` (0x03, R102). -/
  | qDeq
  /-- `Q.RESET` (0x04, R103). -/
  | qReset
  /-- `C.AVAIL` (0x10, R120). -/
  | cAvail
  /-- `C.NEXT` (0x11, R121). -/
  | cNext
  /-- `C.SENT` (0x12, R122). -/
  | cSent
  /-- `C.PREP2 address, value` (0x13, R123). -/
  | cPrep2 (a v : Byte)
  /-- `C.PREP3 address, kind, value` (0x14, R124). -/
  | cPrep3 (a k v : Byte)
  /-- `R.ONADDR address` (0x20, R140). -/
  | rOnAddr (a : Byte)
  /-- `R.ONDATA byte` (0x21, R141). -/
  | rOnData (b : Byte)
  /-- `R.ONEND` (0x22, R142). -/
  | rOnEnd
  /-- `R.HAS` (0x23, R143). -/
  | rHas
  /-- `R.TAKE` (0x24, R144). -/
  | rTake
  /-- `I.ARM` (0x30, R160). -/
  | iArm
  /-- `I.STEP rx` (0x31, R161). -/
  | iStep (rx : Byte)
  /-- `I.SETRH h` (0x32, R168). -/
  | iSetRh (h : Byte)
  /-- `S.START` (0x40, R180). -/
  | sStart
  /-- `S.STOP` (0x41, R181). -/
  | sStop
  /-- `S.BYTEW byte` (0x42, R182). -/
  | sByteW (b : Byte)
  /-- `S.BYTER byte` (0x43, R185). -/
  | sByteR (b : Byte)
  /-- `S.EXPOSE local address, value` (0x44, R189). -/
  | sExpose (l v : Byte)
  /-- `S.SETCH h` (0x45, R190). -/
  | sSetCh (h : Byte)
  /-- `D.SEL channel` (0x50, R200). -/
  | dSel (i : Byte)
  /-- `D.SETP value` (0x51, R201). -/
  | dSetP (v : Byte)
  /-- `D.TICK` (0x52, R202). -/
  | dTick
  /-- `D.DUTY channel` (0x53, R203). -/
  | dDuty (c : Byte)
  /-- `X.REINIT` (0x60, R220). -/
  | xReinit
  deriving DecidableEq, Repr

end Sys2Proof
end

