-- ==== Sys2Proof/Decode.lean ====
section
/-! DEFINITION. The operation word (30_encoding.md R70 to R77): its fields, the decoder, the encoder, and the two checks
made on a decoded word, the mode gate (R75) and the operand range (R76). -/

namespace Sys2Proof

/-! ## Fields of an operation word (R70) -/

/-- `w[31:24]`. -/
def opcodeField (w : Word) : Byte := w.extractLsb' 24 8

/-- Operand A, `w[23:16]`. -/
def fieldA (w : Word) : Byte := w.extractLsb' 16 8

/-- Operand B, `w[15:8]`. -/
def fieldB (w : Word) : Byte := w.extractLsb' 8 8

/-- Operand C, `w[7:0]`. -/
def fieldC (w : Word) : Byte := w.extractLsb' 0 8

/-- R70: a word from its opcode and operand bytes. -/
def mkWord (op a b c : Byte) : Word := op ++ a ++ b ++ c

/-! ## Decoding -/

/-- Why a word matches no row (R74). -/
inductive DecodeError where
  /-- The opcode stands in no row of R73. -/
  | unassignedOpcode (opcode : Byte)
  /-- The opcode's row has a reserved operand byte and it is not 0 (R72). -/
  | reservedByteNotZero (opcode : Byte)
  deriving DecidableEq, Repr

/-- The four formats (R71), each with how the operation is made from the operand bytes the format uses. -/
inductive Format where
  /-- No operand: A, B and C are reserved. -/
  | op0 (i : Instr)
  /-- Operand A: B and C are reserved. -/
  | op1 (mk : Byte → Instr)
  /-- Operands A and B: C is reserved. -/
  | op2 (mk : Byte → Byte → Instr)
  /-- Operands A, B and C. -/
  | op3 (mk : Byte → Byte → Byte → Instr)

/-- A row of the opcode map. -/
structure OpcodeRow where
  opcode : Byte
  format : Format

/-- R73: the rows of the Command Queue and the transmit codec. -/
def transmitRows : List OpcodeRow :=
  [⟨0x01, .op0 .qIsEmpty⟩, ⟨0x02, .op1 .qEnq⟩, ⟨0x03, .op0 .qDeq⟩, ⟨0x04, .op0 .qReset⟩,
   ⟨0x10, .op0 .cAvail⟩, ⟨0x11, .op0 .cNext⟩, ⟨0x12, .op0 .cSent⟩, ⟨0x13, .op2 .cPrep2⟩, ⟨0x14, .op3 .cPrep3⟩]

/-- R73: the rows of the receive codec and the initiator. -/
def receiveAndInitiatorRows : List OpcodeRow :=
  [⟨0x20, .op1 .rOnAddr⟩, ⟨0x21, .op1 .rOnData⟩, ⟨0x22, .op0 .rOnEnd⟩, ⟨0x23, .op0 .rHas⟩, ⟨0x24, .op0 .rTake⟩,
   ⟨0x30, .op0 .iArm⟩, ⟨0x31, .op1 .iStep⟩, ⟨0x32, .op1 .iSetRh⟩]

/-- R73: the rows of the responder, the Duty Scheduler and the system operation. -/
def responderAndDutyRows : List OpcodeRow :=
  [⟨0x40, .op0 .sStart⟩, ⟨0x41, .op0 .sStop⟩, ⟨0x42, .op1 .sByteW⟩, ⟨0x43, .op1 .sByteR⟩, ⟨0x44, .op2 .sExpose⟩,
   ⟨0x45, .op1 .sSetCh⟩, ⟨0x50, .op1 .dSel⟩, ⟨0x51, .op1 .dSetP⟩, ⟨0x52, .op0 .dTick⟩, ⟨0x53, .op1 .dDuty⟩,
   ⟨0x60, .op0 .xReinit⟩]

/-- R73: the opcode map. -/
def opcodeMap : List OpcodeRow := transmitRows ++ receiveAndInitiatorRows ++ responderAndDutyRows

/-- R72: the reserved bytes of a format must be 0; the others are the operands, used as they are (R71). -/
def Format.read (f : Format) (w : Word) : Option Instr :=
  match f with
  | .op0 i => if fieldA w = 0 ∧ fieldB w = 0 ∧ fieldC w = 0 then some i else none
  | .op1 mk => if fieldB w = 0 ∧ fieldC w = 0 then some (mk (fieldA w)) else none
  | .op2 mk => if fieldC w = 0 then some (mk (fieldA w) (fieldB w)) else none
  | .op3 mk => some (mk (fieldA w) (fieldB w) (fieldC w))

/-- R74: total on every word. A word decodes to the row of its opcode if the row's reserved bytes are 0. -/
def decode (w : Word) : Except DecodeError Instr :=
  match opcodeMap.find? (fun row => row.opcode == opcodeField w) with
  | none => .error (.unassignedOpcode (opcodeField w))
  | some row =>
    match row.format.read w with
    | some i => .ok i
    | none => .error (.reservedByteNotZero (opcodeField w))

/-- The instruction decoded from the word whose bits are `w`, `nbits` of them given; the bits above `nbits` are 0. The
hardware has no memory and no byte order (R50, R53): the 32-bit word is the unit the host issues (R70). -/
def decodeTableWord (nbits w : Nat) : Option Instr :=
  match decode (BitVec.ofNat 32 (w % 2 ^ nbits)) with
  | .ok i => some i
  | .error _ => none

/-! ## Encoding -/

/-- The opcode column of R73. -/
def Instr.opcode : Instr → Byte
  | .qIsEmpty => 0x01
  | .qEnq _ => 0x02
  | .qDeq => 0x03
  | .qReset => 0x04
  | .cAvail => 0x10
  | .cNext => 0x11
  | .cSent => 0x12
  | .cPrep2 _ _ => 0x13
  | .cPrep3 _ _ _ => 0x14
  | .rOnAddr _ => 0x20
  | .rOnData _ => 0x21
  | .rOnEnd => 0x22
  | .rHas => 0x23
  | .rTake => 0x24
  | .iArm => 0x30
  | .iStep _ => 0x31
  | .iSetRh _ => 0x32
  | .sStart => 0x40
  | .sStop => 0x41
  | .sByteW _ => 0x42
  | .sByteR _ => 0x43
  | .sExpose _ _ => 0x44
  | .sSetCh _ => 0x45
  | .dSel _ => 0x50
  | .dSetP _ => 0x51
  | .dTick => 0x52
  | .dDuty _ => 0x53
  | .xReinit => 0x60

/-- The operand bytes in A, B, C order (R71, R73). -/
def Instr.operands : Instr → List Byte
  | .qEnq b => [b]
  | .cPrep2 a v => [a, v]
  | .cPrep3 a k v => [a, k, v]
  | .rOnAddr a => [a]
  | .rOnData b => [b]
  | .iStep rx => [rx]
  | .iSetRh h => [h]
  | .sByteW b => [b]
  | .sByteR b => [b]
  | .sExpose l v => [l, v]
  | .sSetCh h => [h]
  | .dSel i => [i]
  | .dSetP v => [v]
  | .dDuty c => [c]
  | .qIsEmpty => []
  | .qDeq => []
  | .qReset => []
  | .cAvail => []
  | .cNext => []
  | .cSent => []
  | .rOnEnd => []
  | .rHas => []
  | .rTake => []
  | .iArm => []
  | .sStart => []
  | .sStop => []
  | .dTick => []
  | .xReinit => []

/-- R70, R72: the operation word of an instruction; the operand bytes its format does not use are 0. -/
def encode (i : Instr) : Word :=
  mkWord i.opcode (i.operands.getD 0 0) (i.operands.getD 1 0) (i.operands.getD 2 0)

/-! ## Checks on a decoded word -/

/-- R75: the configuration the operation decodes in. -/
def gateOpen (c : Config) : Instr → Bool
  | .cPrep2 _ _ => c.fieldCount == 2
  | .cPrep3 _ _ _ => c.fieldCount == 3
  | .rOnAddr _ => c.rxMode == .queued
  | .rOnData _ => c.rxMode == .queued
  | .rOnEnd => c.rxMode == .queued
  | .rHas => c.rxMode == .queued
  | .rTake => c.rxMode == .queued
  | .qIsEmpty => true
  | .qEnq _ => true
  | .qDeq => true
  | .qReset => true
  | .cAvail => true
  | .cNext => true
  | .cSent => true
  | .iArm => true
  | .iStep _ => true
  | .iSetRh _ => true
  | .sStart => true
  | .sStop => true
  | .sByteW _ => true
  | .sByteR _ => true
  | .sExpose _ _ => true
  | .sSetCh _ => true
  | .dSel _ => true
  | .dSetP _ => true
  | .dTick => true
  | .dDuty _ => true
  | .xReinit => true

/-- R76: the operand range of a decoded word. Every operand not named there takes all 256 values. -/
def inRange (c : Config) : Instr → Bool
  | .iSetRh h => decide (h.toNat ≤ 1)
  | .sSetCh h => decide (h.toNat ≤ 2)
  | .sExpose l _ => decide (l.toNat ≤ c.lmask)
  | .dSel i => decide (i.toNat ≤ 1)
  | .dDuty ch => decide (ch.toNat ≤ 1)
  | .qIsEmpty => true
  | .qEnq _ => true
  | .qDeq => true
  | .qReset => true
  | .cAvail => true
  | .cNext => true
  | .cSent => true
  | .cPrep2 _ _ => true
  | .cPrep3 _ _ _ => true
  | .rOnAddr _ => true
  | .rOnData _ => true
  | .rOnEnd => true
  | .rHas => true
  | .rTake => true
  | .iArm => true
  | .iStep _ => true
  | .sStart => true
  | .sStop => true
  | .sByteW _ => true
  | .sByteR _ => true
  | .dSetP _ => true
  | .dTick => true
  | .xReinit => true

end Sys2Proof
end

