-- ==== Sys2Proof/WellFormed.lean ====
section
/-! DEFINITION. Which instructions a configuration admits: the mode gate of 30_encoding.md R75 and the operand range of
R76 (both stated in Decode.lean, as checks of the decode). -/

namespace Sys2Proof

/-- An instruction the interface performs under configuration `c`: it passes R75 and R76. -/
def Instr.wf (c : Config) (i : Instr) : Bool := gateOpen c i && inRange c i

end Sys2Proof
end

