-- ==== Sys2Proof/Machine/Operands.lean ====
section
/-! DEFINITION. What operand bytes stand for: channels, handler kinds and bits (30_encoding.md R73, R76), the fields of a
raw address byte (R78), the local sub-address decoding (R79), the command frames (R80, R81), and the numeric codes of
the enumerations (10_state.md R20; 30_encoding.md R84, R86; 60_exceptions.md R241). -/

namespace Sys2Proof.Machine

/-! ## Operand bytes -/

/-- The operand h of `I.SETRH`: 0 or 1 (R76, R168). -/
def bitOperand (h : Byte) : Option Bool :=
  if h = 0 then some false else if h = 1 then some true else none

/-- The channel operand of `D.SEL` and `D.DUTY`, and the local sub-address the PWM handler maps to a channel: 0 or 1
(R76, R191, R200, R203). -/
def channelOperand (i : Byte) : Option Channel :=
  if i = 0 then some .ch0 else if i = 1 then some .ch1 else none

/-- The operand h of `S.SETCH`: 0 = NONE, 1 = PWM, 2 = EXTERNAL (R76, R190). -/
def handlerOperand (h : Byte) : Option HandlerKind :=
  if h = 0 then some .none else if h = 1 then some .pwm else if h = 2 then some .external else none

/-! ## The raw address byte -/

/-- R78: bit 0 is the direction, 1 = read. -/
def isReadAddress (r : Byte) : Bool := r.getLsbD 0

/-- R78: bits 7..1 are the 7-bit bus address. -/
def busAddress (r : Byte) : BitVec 7 := r.extractLsb' 1 7

/-- R79: `decode(r) = (r >> 1) & LMASK`. -/
def decodeLocal (c : Config) (r : Byte) : Byte := (r >>> 1) &&& BitVec.ofNat 8 c.lmask

/-! ## Command frames -/

/-- R80: `[address][value]`. -/
def frame2 (a v : Byte) : List Byte := [a, v]

/-- R81: `[address][kind][value]`. -/
def frame3 (a k v : Byte) : List Byte := [a, k, v]

/-! ## Numeric codes, for dumps -/

/-- R20: the codes of `cs`. -/
def FieldPos.code : FieldPos → Nat
  | .noCmd => 0
  | .addrP => 1
  | .kindP => 2
  | .valueP => 3
  | .complete => 4

/-- R20: the codes of `ini_state`. -/
def IniState.code : IniState → Nat
  | .addr => 0
  | .dataOut => 1
  | .prepIn => 2
  | .dataIn => 3
  | .stop => 4
  | .done => 5

/-- R20: the codes of `rs_phase`. -/
def RsPhase.code : RsPhase → Nat
  | .none => 0
  | .addr => 1
  | .data => 2

/-- R20: the codes of `rs_dir`. -/
def Direction.code : Direction → Nat
  | .write => 0
  | .read => 1

/-- R20: the codes of `ch_handler`. -/
def HandlerKind.code : HandlerKind → Nat
  | .none => 0
  | .pwm => 1
  | .external => 2

/-- The index of a channel (R36, R37). -/
def Channel.index : Channel → Nat
  | .ch0 => 0
  | .ch1 => 1

/-- R241: the fault codes. -/
def FaultCode.code : FaultCode → Nat
  | .cqUnderflow => 1
  | .cqOverflow => 2
  | .rxqUnderflow => 3
  | .rxqOverflow => 4
  | .armBusy => 5
  | .noCmdHandler => 6
  | .noResultHandler => 7
  | .illegalOp => 8

/-- R84: the event tags. -/
def OutEvent.tag : OutEvent → Nat
  | .busStart => 0x01
  | .busStop => 0x02
  | .busTx _ => 0x03
  | .busRcen => 0x04
  | .busNack => 0x05
  | .result _ _ => 0x06
  | .respTx _ => 0x10
  | .cmd _ _ => 0x11

end Sys2Proof.Machine
end

