-- ==== Sys2Proof/Machine/Ops.lean ====
section
/-! DEFINITION. The operations the meanings share: the outcome of one operation (00_scope.md R14), taking a fault
(60_exceptions.md R240 to R243), the interface every operation goes through (30_encoding.md R77), and the accesses to
the block's storages (20_memory.md R50). -/

namespace Sys2Proof.Machine

/-! ## The outcome of one operation -/

/-- R14 (a): what an operation that raises no fault leaves: the next state, the events it emitted in order (R84) and
its returned value (R85). -/
structure Effect where
  st : State
  events : List OutEvent
  ret : Ret
  deriving DecidableEq, Repr

/-- R13, R14: performing a rule's pseudocode either completes or reaches `raise Fault(CODE)`. A fault carries no state
and no events, so the writes and outputs made before it are discarded (R242). -/
abbrev Attempt := Except FaultCode Effect

/-- R39: a completed operation adds its observation to the run. -/
def Effect.commit (e : Effect) : State :=
  { e.st with trace := e.st.trace ++ [⟨e.events, e.ret⟩] }

/-- TAKING A FAULT (R240, R242): `fault <- (code, w)`, and nothing else. There is no trap entry (R246) and no return
from a fault (R247): only POR clears it. -/
def State.raise (c : FaultCode) (w : Word) (s : State) : State :=
  { s with fault := some ⟨c, w⟩ }

/-! ## The interface -/

/-- The legal values of R20, over a well-formed configuration (R9): bounded queues (R21, R33), pointers within the
table (R28, R29) and a table of `REG_COUNT` entries (R30). -/
def State.legal (s : State) : Bool :=
  s.cfg.wf &&
  decide (s.cq.length ≤ s.cfg.cqCapacity) &&
  decide (s.rxq.length ≤ s.cfg.rxqCapacity) &&
  decide (s.rsLocal.toNat ≤ s.cfg.lmask) &&
  decide (s.rsRdptr.toNat ≤ s.cfg.lmask) &&
  (s.regs.length == s.cfg.regCount)

/-- R14: how an attempt of the operation word `w` ends. A completed one is committed (a); a raised fault is recorded with
the word, over the state before the operation (b, R242). -/
def conclude (w : Word) (s : State) : Attempt → Host.Outcome State Fault Refusal
  | .ok e => .next e.commit
  | .error c => .next (s.raise c w)

/-- One operation word `w` issued at the interface, whose operation attempts `f`. A record that is no state of a block
is refused (R9, R20). A recorded fault makes every operation without effect (R77 step 1, R243). -/
def atInterface (w : Word) (f : State → Attempt) (s : State) : Host.Outcome State Fault Refusal :=
  if s.cfg.wf then
    if s.legal then
      if s.fault.isSome then .next s else conclude w s (f s)
    else .refused .illegalState
  else .refused .illFormedConfig

/-- A word that matches no row: `Fault(ILLEGAL_OP)` (R74, R77 step 2). -/
def illegalWord (w : Word) (s : State) : Host.Outcome State Fault Refusal :=
  atInterface w (fun _ => .error .illegalOp) s

/-- A decoded operation `i` whose rule is `body`: the mode gate (R75, R77 step 3), the operand range (R76, step 4), then
the rule (step 5). -/
def perform (i : Instr) (body : State → Attempt) (s : State) : Host.Outcome State Fault Refusal :=
  atInterface (encode i) (fun s => if i.wf s.cfg then body s else .error .illegalOp) s

/-- A rule that returns no value and emits nothing. -/
def Effect.silent (s : State) : Effect := ⟨s, [], .none⟩

/-- A rule that returns a value and emits nothing. -/
def Effect.returning (s : State) (r : Ret) : Effect := ⟨s, [], r⟩

/-- A rule that emits events and returns no value. -/
def Effect.emitting (s : State) (es : List OutEvent) : Effect := ⟨s, es, .none⟩

/-! ## The Command Queue (R50 (a)) -/

/-- Append bytes at the tail, all of them or none: CQ_OVERFLOW when fewer than `len(bs)` bytes are free (R101, R123,
R124). For one byte and a queue within its bound (R21) this is `len(cq) = CQ_CAPACITY`. -/
def cqAppend (bs : List Byte) (s : State) : Except FaultCode State :=
  if s.cq.length + bs.length > s.cfg.cqCapacity then .error .cqOverflow
  else .ok { s with cq := s.cq ++ bs }

/-- Remove the head byte: CQ_UNDERFLOW on an empty queue (R102, R121). -/
def cqRemove (s : State) : Except FaultCode (Byte × State) :=
  match s.cq with
  | [] => .error .cqUnderflow
  | b :: rest => .ok (b, { s with cq := rest })

/-! ## The Exposed Register Table (R50 (b)) -/

/-- `regs[l]` (R186, R187). In a legal state `l` is an index of the table. -/
def regRead (l : Byte) (s : State) : Byte := s.regs.getD l.toNat 0

/-- `regs[l] <- v` (R189). -/
def regWrite (l v : Byte) (s : State) : State := { s with regs := s.regs.set l.toNat v }

/-! ## The receive queue (R50 (c)) -/

/-- Append a command: RXQ_OVERFLOW on a full queue (R142). -/
def rxqAppend (c : Command) (s : State) : Except FaultCode State :=
  if s.rxq.length ≥ s.cfg.rxqCapacity then .error .rxqOverflow
  else .ok { s with rxq := s.rxq ++ [c] }

/-- Remove the head command: RXQ_UNDERFLOW on an empty queue (R144). -/
def rxqRemove (s : State) : Except FaultCode (Command × State) :=
  match s.rxq with
  | [] => .error .rxqUnderflow
  | c :: rest => .ok (c, { s with rxq := rest })

/-! ## The duty bytes (R50 (d)) -/

/-- The byte of a channel. -/
def PerChannel.get (p : PerChannel) : Channel → Byte
  | .ch0 => p.ch0
  | .ch1 => p.ch1

/-- Write the byte of a channel. -/
def PerChannel.set (p : PerChannel) (c : Channel) (v : Byte) : PerChannel :=
  match c with
  | .ch0 => { p with ch0 := v }
  | .ch1 => { p with ch1 := v }

/-- `1 - i` (R202). -/
def Channel.other : Channel → Channel
  | .ch0 => .ch1
  | .ch1 => .ch0

end Sys2Proof.Machine
end

