-- ==== Sys2Proof/Machine/Codec.lean ====
section
/-! DEFINITION. The transmit codec (41_codec.md R120 to R127). `callAvail`, `callNext` and `State.sent` are the bodies
other rules `call` (00_scope.md R13). -/

namespace Sys2Proof.Machine

/-- `C.AVAIL` (R120): an idle codec over a non-empty queue re-arms to ADDR_P; true iff the queue is non-empty.
DEDUCED (log entry 12): a repeat leaves the same state, as R120 gives it, although R58 does not list `C.AVAIL`. -/
def callAvail (s : State) : Bool × State :=
  (!s.cqEmpty, if !s.cqEmpty && s.cs.idle then { s with cs := .addrP } else s)

/-- The field position after a byte is removed at position `p` (R121). -/
def FieldPos.advance (fieldCount : Nat) : FieldPos → FieldPos
  | .addrP => if fieldCount = 3 then .kindP else .valueP
  | .kindP => .valueP
  | .valueP => .complete
  | .noCmd => .noCmd
  | .complete => .complete

/-- `C.NEXT` (R121): the sentinel 0 on an idle codec; else remove one byte and advance. -/
def callNext (s : State) : Except FaultCode (Byte × State) :=
  if s.cs.idle then .ok (0, s)
  else
    match cqRemove s with
    | .error c => .error c
    | .ok (b, s1) => .ok (b, { s1 with cs := s.cs.advance s.cfg.fieldCount })

/-- The body R123 and R124 share: append the whole frame, re-arm when the codec was idle or the queue empty. -/
def prepare (frame : List Byte) (s : State) : Attempt :=
  match cqAppend frame s with
  | .error c => .error c
  | .ok s1 => .ok (.silent (if s.prepRearms then { s1 with cs := .addrP } else s1))

/-- `C.AVAIL` returns the Boolean (R120). -/
def cAvailBody (s : State) : Attempt :=
  match callAvail s with
  | (r, s1) => .ok (.returning s1 (.bool r))

/-- `C.NEXT` returns the byte (R121). -/
def cNextBody (s : State) : Attempt :=
  match callNext s with
  | .error c => .error c
  | .ok (b, s1) => .ok (.returning s1 (.byte b))

/-- `C.SENT` (R122): `ret (cs = COMPLETE)`. -/
def cSentBody (s : State) : Attempt := .ok (.returning s (.bool s.sent))

/-- `C.AVAIL` (R120). -/
def execCAvail (s : State) : Host.Outcome State Fault Refusal := perform .cAvail cAvailBody s

/-- `C.NEXT` (R121). -/
def execCNext (s : State) : Host.Outcome State Fault Refusal := perform .cNext cNextBody s

/-- `C.SENT` (R122). -/
def execCSent (s : State) : Host.Outcome State Fault Refusal := perform .cSent cSentBody s

/-- `C.PREP2 a, v` (R123). -/
def execCPrep2 (a v : Byte) (s : State) : Host.Outcome State Fault Refusal :=
  perform (.cPrep2 a v) (prepare (frame2 a v)) s

/-- `C.PREP3 a, k, v` (R124). -/
def execCPrep3 (a k v : Byte) (s : State) : Host.Outcome State Fault Refusal :=
  perform (.cPrep3 a k v) (prepare (frame3 a k v)) s

end Sys2Proof.Machine
end

