-- ==== Sys2Proof/Machine/Duty.lean ====
section
/-! DEFINITION. The Duty Scheduler (45_duty.md R200 to R206). `callSel` and `callSetP` are the bodies the PWM command
handler `call`s (44_responder.md R191). -/

namespace Sys2Proof.Machine

/-- `D.SEL` (R200): `ds_sel <- i`. -/
def callSel (c : Channel) (s : State) : State := { s with dsSel := c }

/-- `D.SETP v` (R201): `ds_pending[ds_sel] <- v`. -/
def callSetP (v : Byte) (s : State) : State := { s with dsPending := s.dsPending.set s.dsSel v }

/-- `D.SEL i` (R200), `i` in range. -/
def dSelBody (i : Byte) (s : State) : Attempt :=
  match channelOperand i with
  | some c => .ok (.silent (callSel c s))
  | none => .error .illegalOp

/-- `D.TICK` (R202): toggle the phase, latch both channels, return the new phase. -/
def dTickBody (s : State) : Attempt :=
  .ok (.returning { s with dsPhase := s.dsPhase.other, dsCurrent := s.dsPending } (.bool s.dsPhase.other.isOne))

/-- The duty value of a channel in the current period (R203). -/
def dutyOf (c : Channel) (s : State) : Byte := if c = s.dsPhase then s.dsCurrent.get c else 0

/-- `D.DUTY c` (R203), `c` in range. -/
def dDutyBody (i : Byte) (s : State) : Attempt :=
  match channelOperand i with
  | some c => .ok (.returning s (.byte (dutyOf c s)))
  | none => .error .illegalOp

/-- `D.SEL i` (R200). -/
def execDSel (i : Byte) (s : State) : Host.Outcome State Fault Refusal := perform (.dSel i) (dSelBody i) s

/-- `D.SETP v` (R201). -/
def execDSetP (v : Byte) (s : State) : Host.Outcome State Fault Refusal :=
  perform (.dSetP v) (fun s => .ok (.silent (callSetP v s))) s

/-- `D.TICK` (R202). -/
def execDTick (s : State) : Host.Outcome State Fault Refusal := perform .dTick dTickBody s

/-- `D.DUTY c` (R203). -/
def execDDuty (c : Byte) (s : State) : Host.Outcome State Fault Refusal := perform (.dDuty c) (dDutyBody c) s

end Sys2Proof.Machine
end

