-- ==== Sys2Proof/Machine/Initiator.lean ====
section
/-! DEFINITION. The Bus Initiator Engine (43_initiator.md R160 to R171). -/

namespace Sys2Proof.Machine

/-- `I.ARM` (R160): ARM_BUSY outside ADDR and DONE. DEDUCED (log entry 12): a repeat emits BUS_START again and leaves the
same state, as R160 gives it, although R58 does not list `I.ARM`. -/
def iArmBody (s : State) : Attempt :=
  if s.iniState.armable then .ok (.emitting { s with iniState := .addr } [.busStart]) else .error .armBusy

/-- The step in ADDR (R162): place the address byte if a command is available; its direction bit selects the next
state. -/
def stepAddr (s : State) : Attempt :=
  match callAvail s with
  | (true, s1) =>
    match callNext s1 with
    | .error c => .error c
    | .ok (a, s2) =>
      .ok (.emitting { s2 with iniAddr := a, iniState := if isReadAddress a then .prepIn else .dataOut } [.busTx a])
  | (false, s1) => .ok (.silent s1)

/-- The step in DATA_OUT (R163): place the next codec byte; go to STOP once the command is fully sent. -/
def stepDataOut (s : State) : Attempt :=
  match callNext s with
  | .error c => .error c
  | .ok (b, s1) => .ok (.emitting (if s1.sent then { s1 with iniState := .stop } else s1) [.busTx b])

/-- `repeat n times: if not call C.SENT() then discard call C.NEXT()` (R164). -/
def discardPlaceholders : Nat → State → Except FaultCode State
  | 0, s => .ok s
  | n + 1, s =>
    if s.sent then discardPlaceholders n s
    else
      match callNext s with
      | .error c => .error c
      | .ok (_, s1) => discardPlaceholders n s1

/-- The step in PREP_IN (R164). -/
def stepPrepIn (s : State) : Attempt :=
  match discardPlaceholders (s.cfg.fieldCount - 1) s with
  | .error c => .error c
  | .ok s1 => .ok (.emitting { s1 with iniState := .dataIn } [.busRcen])

/-- The step in DATA_IN (R165): NO_RESULT_HANDLER when none is registered. -/
def stepDataIn (rx : Byte) (s : State) : Attempt :=
  if s.rhSet then .ok (.emitting { s with iniState := .stop } [.result s.iniAddr rx, .busNack])
  else .error .noResultHandler

/-- The step in STOP (R166). -/
def stepStop (s : State) : Attempt := .ok (.emitting { s with iniState := .done } [.busStop])

/-- The step in DONE (R167): re-arm a start condition if another command is available; go to ADDR either way. -/
def stepDone (s : State) : Attempt :=
  match callAvail s with
  | (true, s1) => .ok (.emitting { s1 with iniState := .addr } [.busStart])
  | (false, s1) => .ok (.silent { s1 with iniState := .addr })

/-- `I.STEP rx` (R161): exactly one state's action. -/
def iStepBody (rx : Byte) (s : State) : Attempt :=
  match s.iniState with
  | .addr => stepAddr s
  | .dataOut => stepDataOut s
  | .prepIn => stepPrepIn s
  | .dataIn => stepDataIn rx s
  | .stop => stepStop s
  | .done => stepDone s

/-- `I.SETRH h` (R168): `rh_set <- h`. -/
def iSetRhBody (h : Byte) (s : State) : Attempt :=
  match bitOperand h with
  | some b => .ok (.silent { s with rhSet := b })
  | none => .error .illegalOp

/-- `I.ARM` (R160). -/
def execIArm (s : State) : Host.Outcome State Fault Refusal := perform .iArm iArmBody s

/-- `I.STEP rx` (R161). -/
def execIStep (rx : Byte) (s : State) : Host.Outcome State Fault Refusal := perform (.iStep rx) (iStepBody rx) s

/-- `I.SETRH h` (R168). -/
def execISetRh (h : Byte) (s : State) : Host.Outcome State Fault Refusal := perform (.iSetRh h) (iSetRhBody h) s

end Sys2Proof.Machine
end

