-- ==== Sys2Proof/Machine/Queue.lean ====
section
/-! DEFINITION. The Command Queue operations (40_queue.md R100 to R105). -/

namespace Sys2Proof.Machine

/-- `Q.ISEMPTY` (R100): `ret (len(cq) = 0)`. -/
def qIsEmptyBody (s : State) : Attempt := .ok (.returning s (.bool s.cqEmpty))

/-- `Q.ENQ b` (R101). -/
def qEnqBody (b : Byte) (s : State) : Attempt :=
  match cqAppend [b] s with
  | .error c => .error c
  | .ok s1 => .ok (.silent s1)

/-- `Q.DEQ` (R102). `cs` does not advance. -/
def qDeqBody (s : State) : Attempt :=
  match cqRemove s with
  | .error c => .error c
  | .ok (b, s1) => .ok (.returning s1 (.byte b))

/-- `Q.RESET` (R103): `cq <- []`; `cs` stays as it was. -/
def qResetBody (s : State) : Attempt := .ok (.silent { s with cq := [] })

/-- `Q.ISEMPTY` (R100). -/
def execQIsEmpty (s : State) : Host.Outcome State Fault Refusal := perform .qIsEmpty qIsEmptyBody s

/-- `Q.ENQ b` (R101). -/
def execQEnq (b : Byte) (s : State) : Host.Outcome State Fault Refusal := perform (.qEnq b) (qEnqBody b) s

/-- `Q.DEQ` (R102). -/
def execQDeq (s : State) : Host.Outcome State Fault Refusal := perform .qDeq qDeqBody s

/-- `Q.RESET` (R103). -/
def execQReset (s : State) : Host.Outcome State Fault Refusal := perform .qReset qResetBody s

end Sys2Proof.Machine
end

