-- ==== Sys2Proof/Machine/RxCodec.lean ====
section
/-! DEFINITION. The receive codec (42_rx_codec.md R140 to R145). `callOnAddr`, `callOnData` and `callOnEnd` are the
bodies the responder `call`s (00_scope.md R13). -/

namespace Sys2Proof.Machine

/-- `R.ONADDR a` (R140): open a staging command. DEDUCED (log entry 12): a repeat leaves the same state, as R140 gives
it, although R58 does not list `R.ONADDR`. -/
def callOnAddr (a : Byte) (s : State) : State :=
  { s with stValid := true, stAddr := a, stKind := 0, stValue := 0, stNd := 0 }

/-- R141, R32: `if st_nd < 255 then st_nd <- st_nd + 1`. -/
def countSaturating (n : Byte) : Byte := if n.toNat < 255 then n + 1 else n

/-- `R.ONDATA b` (R141): the prior value shifts into the kind in the 3-byte revision; `b` becomes the value. -/
def callOnData (b : Byte) (s : State) : State :=
  { s with
    stKind := if s.cfg.fieldCount = 3 then s.stValue else s.stKind
    stValue := b
    stNd := countSaturating s.stNd }

/-- `R.ONEND` (R142): push the staging command if it is completed; clear `st_valid`. DEDUCED (log entry 12): a
repeat finds `st_valid` false and leaves the same state, although R58 does not list `R.ONEND`. -/
def callOnEnd (s : State) : Except FaultCode State :=
  if s.stagingComplete then
    match rxqAppend ⟨s.stAddr, s.stKind, s.stValue⟩ s with
    | .error c => .error c
    | .ok s1 => .ok { s1 with stValid := false }
  else .ok { s with stValid := false }

/-- `R.ONEND` returns nothing (R142). -/
def rOnEndBody (s : State) : Attempt :=
  match callOnEnd s with
  | .error c => .error c
  | .ok s1 => .ok (.silent s1)

/-- `R.TAKE` (R144). -/
def rTakeBody (s : State) : Attempt :=
  match rxqRemove s with
  | .error c => .error c
  | .ok (c, s1) => .ok (.returning s1 (.command c))

/-- `R.ONADDR a` (R140). -/
def execROnAddr (a : Byte) (s : State) : Host.Outcome State Fault Refusal :=
  perform (.rOnAddr a) (fun s => .ok (.silent (callOnAddr a s))) s

/-- `R.ONDATA b` (R141). -/
def execROnData (b : Byte) (s : State) : Host.Outcome State Fault Refusal :=
  perform (.rOnData b) (fun s => .ok (.silent (callOnData b s))) s

/-- `R.ONEND` (R142). -/
def execROnEnd (s : State) : Host.Outcome State Fault Refusal := perform .rOnEnd rOnEndBody s

/-- `R.HAS` (R143): `ret (len(rxq) > 0)`. -/
def execRHas (s : State) : Host.Outcome State Fault Refusal :=
  perform .rHas (fun s => .ok (.returning s (.bool s.rxPending))) s

/-- `R.TAKE` (R144). -/
def execRTake (s : State) : Host.Outcome State Fault Refusal := perform .rTake rTakeBody s

end Sys2Proof.Machine
end

