-- ==== Sys2Proof/Machine/Responder.lean ====
section
/-! DEFINITION. The Bus Responder Engine (44_responder.md R180 to R193). -/

namespace Sys2Proof.Machine

/-- `S.START` (R180). The staging command is not touched. DEDUCED (log entry 12): a repeat leaves the same state, as R180
gives it, although R58 does not list `S.START`. -/
def sStartBody (s : State) : Attempt :=
  .ok (.silent { s with rsPhase := .addr, rsDir := .write, rsLocal := 0, rsRdptr := 0 })

/-- `S.STOP` (R181): in QUEUED mode the transaction end of the receive codec. DEDUCED (log entry 12): a repeat leaves
the same state, as R181 and R142 give it, although R58 does not list `S.STOP`. -/
def sStopBody (s : State) : Attempt :=
  match s.cfg.rxMode with
  | .sync => .ok (.silent { s with rsPhase := .none })
  | .queued =>
    match callOnEnd s with
    | .error c => .error c
    | .ok s1 => .ok (.silent { s1 with rsPhase := .none })

/-- The built-in PWM command handler (R191): local sub-addresses 0 and 1 are the channels; others have no effect. -/
def pwmHandler (l v : Byte) (s : State) : State :=
  match channelOperand l with
  | some c => callSetP v (callSel c s)
  | none => s

/-- "State 1" (R183): write direction, address byte. -/
def writeAddress (b : Byte) (s : State) : Attempt :=
  let s1 := { s with rsDir := .write, rsLocal := decodeLocal s.cfg b, rsPhase := .data }
  match s.cfg.rxMode with
  | .sync => .ok (.silent s1)
  | .queued => .ok (.silent (callOnAddr s1.rsLocal s1))

/-- "State 2" (R184): write direction, data byte. NO_CMD_HANDLER in SYNC mode with no registered handler. -/
def writeData (b : Byte) (s : State) : Attempt :=
  match s.cfg.rxMode with
  | .sync =>
    match s.chHandler with
    | .none => .error .noCmdHandler
    | .pwm => .ok (.emitting (pwmHandler s.rsLocal b s) [.cmd s.rsLocal b])
    | .external => .ok (.emitting s [.cmd s.rsLocal b])
  | .queued => .ok (.silent (callOnData b s))

/-- A byte event when no start has been seen (R188): no effect. -/
def noStartSeen (s : State) : Attempt := .ok (.silent s)

/-- "State 3" (R186): read direction, address byte. -/
def readAddress (b : Byte) (s : State) : Attempt :=
  let l := decodeLocal s.cfg b
  .ok (.emitting { s with rsDir := .read, rsLocal := l, rsRdptr := l, rsPhase := .data } [.respTx (regRead l s)])

/-- R187: the entry that state 4 supplies. -/
def nextEntry (s : State) : Byte :=
  if s.cfg.readAutoIncrement then BitVec.ofNat 8 ((s.rsRdptr.toNat + 1) % s.cfg.regCount) else s.rsRdptr

/-- "State 4" (R187): read direction, after a data byte. -/
def readData (s : State) : Attempt :=
  .ok (.emitting { s with rsRdptr := nextEntry s } [.respTx (regRead (nextEntry s) s)])

/-- `S.BYTEW b` (R182). -/
def sByteWBody (b : Byte) (s : State) : Attempt :=
  match s.rsPhase with
  | .none => noStartSeen s
  | .addr => writeAddress b s
  | .data => writeData b s

/-- `S.BYTER b` (R185). -/
def sByteRBody (b : Byte) (s : State) : Attempt :=
  match s.rsPhase with
  | .none => noStartSeen s
  | .addr => readAddress b s
  | .data => readData s

/-- `S.SETCH h` (R190): `ch_handler <- h`. -/
def sSetChBody (h : Byte) (s : State) : Attempt :=
  match handlerOperand h with
  | some k => .ok (.silent { s with chHandler := k })
  | none => .error .illegalOp

/-- `S.START` (R180). -/
def execSStart (s : State) : Host.Outcome State Fault Refusal := perform .sStart sStartBody s

/-- `S.STOP` (R181). -/
def execSStop (s : State) : Host.Outcome State Fault Refusal := perform .sStop sStopBody s

/-- `S.BYTEW b` (R182). -/
def execSByteW (b : Byte) (s : State) : Host.Outcome State Fault Refusal := perform (.sByteW b) (sByteWBody b) s

/-- `S.BYTER b` (R185). -/
def execSByteR (b : Byte) (s : State) : Host.Outcome State Fault Refusal := perform (.sByteR b) (sByteRBody b) s

/-- `S.EXPOSE l, v` (R189): `regs[l] <- v`. -/
def execSExpose (l v : Byte) (s : State) : Host.Outcome State Fault Refusal :=
  perform (.sExpose l v) (fun s => .ok (.silent (regWrite l v s))) s

/-- `S.SETCH h` (R190). -/
def execSSetCh (h : Byte) (s : State) : Host.Outcome State Fault Refusal := perform (.sSetCh h) (sSetChBody h) s

end Sys2Proof.Machine
end

