-- ==== Sys2Proof/Machine/System.lean ====
section
/-! DEFINITION. Protocol re-initialization (46_system.md R220). R221: the block has no other system operation. -/

namespace Sys2Proof.Machine

/-- R220: the engines, both codecs and both queues go back to their POR values; `regs`, `ch_handler`, `rh_set`, the Duty
Scheduler and `fault` stay. -/
def reinitialized (s : State) : State :=
  { s with
    cq := []
    cs := .noCmd
    iniState := .addr
    iniAddr := 0
    rsPhase := .none
    rsDir := .write
    rsLocal := 0
    rsRdptr := 0
    stValid := false
    stAddr := 0
    stKind := 0
    stValue := 0
    stNd := 0
    rxq := [] }

/-- `X.REINIT` (R220). No BUS_STOP is emitted for an abandoned transaction. -/
def execXReinit (s : State) : Host.Outcome State Fault Refusal :=
  perform .xReinit (fun s => .ok (.silent (reinitialized s))) s

end Sys2Proof.Machine
end

