-- ==== Sys2Proof/Machine/Dispatch.lean ====
section
/-! DEFINITION. One arm per row of the opcode map (30_encoding.md R73). -/

namespace Sys2Proof.Machine

def exec (i : Instr) (s : State) : Host.Outcome State Fault Refusal :=
  match i with
  -- Command Queue
  | .qIsEmpty => Sys2Proof.Machine.execQIsEmpty s
  | .qEnq b => Sys2Proof.Machine.execQEnq b s
  | .qDeq => Sys2Proof.Machine.execQDeq s
  | .qReset => Sys2Proof.Machine.execQReset s
  -- transmit codec
  | .cAvail => Sys2Proof.Machine.execCAvail s
  | .cNext => Sys2Proof.Machine.execCNext s
  | .cSent => Sys2Proof.Machine.execCSent s
  | .cPrep2 a v => Sys2Proof.Machine.execCPrep2 a v s
  | .cPrep3 a k v => Sys2Proof.Machine.execCPrep3 a k v s
  -- receive codec
  | .rOnAddr a => Sys2Proof.Machine.execROnAddr a s
  | .rOnData b => Sys2Proof.Machine.execROnData b s
  | .rOnEnd => Sys2Proof.Machine.execROnEnd s
  | .rHas => Sys2Proof.Machine.execRHas s
  | .rTake => Sys2Proof.Machine.execRTake s
  -- Bus Initiator Engine
  | .iArm => Sys2Proof.Machine.execIArm s
  | .iStep rx => Sys2Proof.Machine.execIStep rx s
  | .iSetRh h => Sys2Proof.Machine.execISetRh h s
  -- Bus Responder Engine
  | .sStart => Sys2Proof.Machine.execSStart s
  | .sStop => Sys2Proof.Machine.execSStop s
  | .sByteW b => Sys2Proof.Machine.execSByteW b s
  | .sByteR b => Sys2Proof.Machine.execSByteR b s
  | .sExpose l v => Sys2Proof.Machine.execSExpose l v s
  | .sSetCh h => Sys2Proof.Machine.execSSetCh h s
  -- Duty Scheduler
  | .dSel ch => Sys2Proof.Machine.execDSel ch s
  | .dSetP v => Sys2Proof.Machine.execDSetP v s
  | .dTick => Sys2Proof.Machine.execDTick s
  | .dDuty c => Sys2Proof.Machine.execDDuty c s
  -- system
  | .xReinit => Sys2Proof.Machine.execXReinit s

end Sys2Proof.Machine
end

