-- ==== Sys2Proof/Machine/Step.lean ====
section
/-! DEFINITION. One step: the block performs the oldest operation word its host has issued (00_scope.md R7, R15;
20_memory.md R61). -/

namespace Sys2Proof.Machine

/-- With no word issued the block waits (70_reset_and_hazards.md R271; log entry 2). Otherwise the oldest word is taken
and performed: a legal word as its operation, any other as ILLEGAL_OP (30_encoding.md R74, R77). -/
def step (s : State) : Host.Outcome State Fault Refusal :=
  match s.ops with
  | [] => .next s
  | w :: rest =>
    match decode w with
    | .ok i => exec i { s with ops := rest }
    | .error _ => illegalWord w { s with ops := rest }

/-- The host issues the word with bits `w` (`nbits` of them given, the rest 0) as the next one (log entry 2). -/
def State.withFetchWord (s : State) (nbits w : Nat) : State :=
  { s with ops := BitVec.ofNat 32 (w % 2 ^ nbits) :: s.ops }

end Sys2Proof.Machine
end

