-- ==== Sys2Proof/Machine/Assembler.lean ====
section
/-! DEFINITION. The assembler syntax of 30_encoding.md R87 and the pseudo-instructions of R88. Lines are lists of
characters; a line assembles to the operation words it stands for. -/

namespace Sys2Proof.Machine

/-! ## Pseudo-instructions (R88) -/

/-- The rows of R88. `a7` is a 7-bit address. -/
inductive Pseudo where
  | wr2 (a7 : BitVec 7) (v : Byte)
  | rd2 (a7 : BitVec 7)
  | wr3 (a7 : BitVec 7) (k v : Byte)
  | rd3 (a7 : BitVec 7)
  | go
  | pwm (c v : Byte)
  | period
  deriving DecidableEq, Repr

/-- `a7 << 1`: the raw address byte of a write (R78). -/
def writeAddressByte (a7 : BitVec 7) : Byte := a7 ++ 0#1

/-- `(a7 << 1) + 1`: the raw address byte of a read (R78). -/
def readAddressByte (a7 : BitVec 7) : Byte := a7 ++ 1#1

/-- The expansion column of R88. -/
def Pseudo.expand : Pseudo → List Instr
  | .wr2 a7 v => [.cPrep2 (writeAddressByte a7) v]
  | .rd2 a7 => [.cPrep2 (readAddressByte a7) 0]
  | .wr3 a7 k v => [.cPrep3 (writeAddressByte a7) k v]
  | .rd3 a7 => [.cPrep3 (readAddressByte a7) 0 0]
  | .go => [.iArm]
  | .pwm c v => [.dSel c, .dSetP v]
  | .period => [.dTick, .dDuty 0, .dDuty 1]

/-! ## Lines (R87) -/

/-- Blank characters around a mnemonic and its operands. -/
def isBlank (c : Char) : Bool := c == ' ' || c == '\t'

/-- A comment runs from `;` to the end of the line. -/
def stripComment (l : List Char) : List Char := l.takeWhile (· != ';')

/-- A list of characters without the blanks at its ends. -/
def trim (l : List Char) : List Char := ((l.dropWhile isBlank).reverse.dropWhile isBlank).reverse

/-- The pieces between commas. -/
def splitCommas : List Char → List (List Char)
  | [] => [[]]
  | c :: cs =>
    if c == ',' then [] :: splitCommas cs
    else
      match splitCommas cs with
      | [] => [[c]]
      | p :: ps => (c :: p) :: ps

/-- A digit of a numeric literal. -/
def digitValue (base : Nat) (c : Char) : Option Nat :=
  let n := c.toNat
  let v := if 48 ≤ n ∧ n ≤ 57 then n - 48 else if 65 ≤ n ∧ n ≤ 70 then n - 55 else if 97 ≤ n ∧ n ≤ 102 then n - 87 else base
  if v < base then some v else none

/-- The number the digits stand for, the first being the most significant. -/
def digitsValue (base : Nat) : List Char → Nat → Option Nat
  | [], acc => some acc
  | c :: cs, acc =>
    match digitValue base c with
    | none => none
    | some d => digitsValue base cs (acc * base + d)

/-- A number written with at least one digit, which must fit in 8 bits. -/
def byteOfDigits (base : Nat) (ds : List Char) : Option Byte :=
  if ds.isEmpty then none
  else
    match digitsValue base ds 0 with
    | none => none
    | some n => if n < 256 then some (BitVec.ofNat 8 n) else none

/-- A numeric literal: decimal (`10`), hexadecimal (`0x0C`) or binary (`0b00001100`). -/
def literal : List Char → Option Byte
  | '0' :: 'x' :: ds => byteOfDigits 16 ds
  | '0' :: 'b' :: ds => byteOfDigits 2 ds
  | ds => byteOfDigits 10 ds

/-- The operands of a line: none, or literals separated by commas. -/
def operandList (l : List Char) : Option (List Byte) :=
  if (trim l).isEmpty then some [] else (splitCommas l).mapM (fun p => literal (trim p))

/-- A 7-bit address operand of a pseudo-instruction: at most 0x7F (R88). -/
def address7 (b : Byte) : Option (BitVec 7) := if b.toNat ≤ 0x7F then some (b.setWidth 7) else none

/-- The operation or pseudo-instruction of a mnemonic with its operands, written exactly as in R73 and R88. -/
def operationOf (m : String) (args : List Byte) : Option (List Instr) :=
  match m, args with
  | "Q.ISEMPTY", [] => some [.qIsEmpty]
  | "Q.ENQ", [b] => some [.qEnq b]
  | "Q.DEQ", [] => some [.qDeq]
  | "Q.RESET", [] => some [.qReset]
  | "C.AVAIL", [] => some [.cAvail]
  | "C.NEXT", [] => some [.cNext]
  | "C.SENT", [] => some [.cSent]
  | "C.PREP2", [a, v] => some [.cPrep2 a v]
  | "C.PREP3", [a, k, v] => some [.cPrep3 a k v]
  | "R.ONADDR", [a] => some [.rOnAddr a]
  | "R.ONDATA", [b] => some [.rOnData b]
  | "R.ONEND", [] => some [.rOnEnd]
  | "R.HAS", [] => some [.rHas]
  | "R.TAKE", [] => some [.rTake]
  | "I.ARM", [] => some [.iArm]
  | "I.STEP", [rx] => some [.iStep rx]
  | "I.SETRH", [h] => some [.iSetRh h]
  | "S.START", [] => some [.sStart]
  | "S.STOP", [] => some [.sStop]
  | "S.BYTEW", [b] => some [.sByteW b]
  | "S.BYTER", [b] => some [.sByteR b]
  | "S.EXPOSE", [l, v] => some [.sExpose l v]
  | "S.SETCH", [h] => some [.sSetCh h]
  | "D.SEL", [i] => some [.dSel i]
  | "D.SETP", [v] => some [.dSetP v]
  | "D.TICK", [] => some [.dTick]
  | "D.DUTY", [c] => some [.dDuty c]
  | "X.REINIT", [] => some [.xReinit]
  | "WR2", [a, v] => (address7 a).map fun a7 => Pseudo.expand (.wr2 a7 v)
  | "RD2", [a] => (address7 a).map fun a7 => Pseudo.expand (.rd2 a7)
  | "WR3", [a, k, v] => (address7 a).map fun a7 => Pseudo.expand (.wr3 a7 k v)
  | "RD3", [a] => (address7 a).map fun a7 => Pseudo.expand (.rd3 a7)
  | "GO", [] => some (Pseudo.expand .go)
  | "PWM", [c, v] => some (Pseudo.expand (.pwm c v))
  | "PERIOD", [] => some (Pseudo.expand .period)
  | _, _ => none

/-- R87: one line. A blank line or a comment assembles to no word; `none` is a line that is not of the syntax. -/
def assembleLine (line : String) : Option (List Word) :=
  let l := trim (stripComment line.toList)
  if l.isEmpty then some []
  else
    match operandList (l.dropWhile (fun c => !isBlank c)) with
    | none => none
    | some args => (operationOf (String.ofList (l.takeWhile (fun c => !isBlank c))) args).map (·.map encode)

end Sys2Proof.Machine
end

