-- ==== Sys2Proof/Machine/Compose.lean ====
section
/-! DEFINITION. The two-node composition of 60_exceptions.md R255 (20_memory.md R66): a master block M and a responder
block S over one bus. M's output events are fed to S as operations, and S's output events back to M, in the same step. -/

namespace Sys2Proof.Machine

/-- Where the transaction on the bus stands, as R255's table distinguishes it. -/
inductive Link where
  /-- No transaction. -/
  | idle
  /-- BUS_START seen; the next BUS_TX is the address byte. -/
  | started
  /-- A matched write transaction. -/
  | matchedWrite
  /-- A matched read transaction. -/
  | matchedRead
  /-- A transaction S's bus hardware did not match. -/
  | unmatched
  deriving DecidableEq, Repr

/-- The composed system. -/
structure TwoNode where
  /-- The master block. -/
  m : State
  /-- The responder block. -/
  s : State
  /-- The transaction on the bus. -/
  link : Link
  /-- The byte S installed for output (RESP_TX) and M has not read. -/
  rx : Option Byte
  deriving DecidableEq, Repr

/-- Both blocks at POR and no transaction on the bus. -/
def TwoNode.por (cm cs : Config) : TwoNode := ⟨State.por cm, State.por cs, .idle, none⟩

/-- The two ends share `FIELD_COUNT` and `LOCAL_BITS` (R255, 70_reset_and_hazards.md R291), and S's base address is a
legal one (00_scope.md R8). -/
def TwoNode.wf (y : TwoNode) : Bool :=
  y.m.cfg.fieldCount == y.s.cfg.fieldCount && y.m.cfg.localBits == y.s.cfg.localBits && y.s.cfg.respBaseLegal

/-- One block performs the word `w` now. -/
def issue (w : Word) (s : State) : Option State :=
  match step { s with ops := w :: s.ops } with
  | .next t => some t
  | .fault _ => none
  | .refused _ => none

/-- The output events of the observations that `after` has beyond `before`. -/
def emitted (before after : State) : List OutEvent :=
  (after.trace.drop before.trace.length).flatMap (·.events)

/-- R255: `(a >> 1) & ~LMASK = RESP_ADDR_BASE`, over the 7-bit address. -/
def addressMatches (c : Config) (a : Byte) : Bool :=
  (busAddress a &&& ~~~ BitVec.ofNat 7 c.lmask) == c.respAddrBase

/-- The byte M's next DATA_IN step carries after the events `es` of S (R255: `RESP_TX(v)`). DESIGN CHOICE (log entry 7):
a second RESP_TX before that step replaces the byte of the first, which R255 and R290 leave open. DEDUCED (log entry 7):
an event of S that is no RESP_TX, a BUS_* of its own initiator among them, reaches nobody, because R255's table has no row
for it. -/
def installed : List OutEvent → Option Byte → Option Byte
  | [], rx => rx
  | .respTx v :: es, _ => installed es (some v)
  | _ :: es, rx => installed es rx

/-- The host issues the word `w` to S. -/
def TwoNode.moveS (w : Word) (y : TwoNode) : Option TwoNode :=
  (issue w y.s).map fun t => { y with s := t, rx := installed (emitted y.s t) y.rx }

/-- R255: what S receives for one output event of M. DEDUCED (log entry 7): the cases with no row in R255's table, among
them a RESP_TX of M's own responder, which reaches nobody. -/
def TwoNode.deliver (y : TwoNode) (e : OutEvent) : Option TwoNode :=
  match e with
  | .busStart => (y.moveS (encode .sStart)).map fun z => { z with link := .started, rx := none }
  | .busTx b =>
    match y.link with
    | .started =>
      if addressMatches y.s.cfg b then
        if isReadAddress b then (y.moveS (encode (.sByteR b))).map fun z => { z with link := .matchedRead }
        else (y.moveS (encode (.sByteW b))).map fun z => { z with link := .matchedWrite }
      else some { y with link := .unmatched }
    | .matchedWrite => y.moveS (encode (.sByteW b))
    | .matchedRead => some y
    | .unmatched => some y
    | .idle => some y
  | .busStop =>
    match y.link with
    | .matchedWrite => (y.moveS (encode .sStop)).map fun z => { z with link := .idle }
    | .matchedRead => (y.moveS (encode .sStop)).map fun z => { z with link := .idle }
    | .started => some { y with link := .idle }
    | .unmatched => some { y with link := .idle }
    | .idle => some y
  | .busRcen => some y
  | .busNack => some y
  | .result _ _ => some y
  | .respTx _ => some y
  | .cmd _ _ => some y

/-- Deliver M's events to S in emission order. -/
def TwoNode.deliverAll : List OutEvent → TwoNode → Option TwoNode
  | [], y => some y
  | e :: es, y =>
    match y.deliver e with
    | none => none
    | some z => TwoNode.deliverAll es z

/-- The operand of an I.STEP that M performs in DATA_IN, if `w` is one. -/
def dataInOperand (w : Word) (m : State) : Option Byte :=
  match decode w with
  | .ok (.iStep rx) => if m.iniState = .dataIn ∧ m.fault = none then some rx else none
  | _ => none

/-- R255: in a matched read, M's DATA_IN step comes after S's RESP_TX and carries its byte. Elsewhere the byte is a free
draw: any operand the host issues (93_implementation_defined.md I13). -/
def TwoNode.mayIssueM (w : Word) (y : TwoNode) : Bool :=
  match dataInOperand w y.m, y.link with
  | some rx, .matchedRead => y.rx == some rx
  | _, _ => true

/-- The host issues the word `w` to M; M's events are delivered in the same step. `none`: the composition has no such
move (70_reset_and_hazards.md R290). -/
def TwoNode.moveM (w : Word) (y : TwoNode) : Option TwoNode :=
  if y.mayIssueM w then
    match issue w y.m with
    | none => none
    | some t =>
      TwoNode.deliverAll (emitted y.m t)
        { y with m := t, rx := if (dataInOperand w y.m).isSome then none else y.rx }
  else none

/-- The two ends of the composition: M is the master, S the responder. -/
inductive Node where
  | master
  | responder
  deriving DecidableEq, Repr

/-- A run of the composition: the words the host issues, each to one of the two blocks. DESIGN CHOICE (log entry
13): its observation is the `trace` of each block; no order between the two blocks' observations is recorded. -/
def TwoNode.run : List (Node × Word) → TwoNode → Option TwoNode
  | [], y => some y
  | (n, w) :: rest, y =>
    match (match n with | .master => y.moveM w | .responder => y.moveS w) with
    | none => none
    | some z => TwoNode.run rest z

end Sys2Proof.Machine
end

