-- ==== Sys2Proof/Safety.lean ====
section
/-! DEFINITION. The terms claims use: when an operation is performed, the invariants of 10_state.md and 41_codec.md R127,
the premises of a launch (70_reset_and_hazards.md R274), a clean end (R299), and runs of operations. -/

namespace Sys2Proof.Machine

/-- A legal state (R20) with no recorded fault: an operation issued now is performed (R77, R243). -/
abbrev State.Ready (s : State) : Prop := s.legal = true ∧ s.fault = none

/-- A completed operation: `s` with one observation more (R39). -/
def State.observing (s : State) (events : List OutEvent) (ret : Ret) : State :=
  { s with trace := s.trace ++ [⟨events, ret⟩] }

/-- R127 (c), R22: KIND_P only in the 3-byte revision. -/
abbrev State.KindLegal (s : State) : Prop := s.cs = .kindP → s.cfg.fieldCount = 3

/-- A codec that has read no command belongs to an initiator that has placed none: NOCMD is left by the step that places
an address, and only POR and X.REINIT come back to it (R162, R220; log entry 5). -/
abbrev State.NoCmdIdle (s : State) : Prop := s.cs = .noCmd → s.iniState = .addr

/-- The invariant every operation keeps: the legal values of R20, R127 (c) and NoCmdIdle. -/
abbrev State.Inv (s : State) : Prop := s.legal = true ∧ s.KindLegal ∧ s.NoCmdIdle

/-- The fields of the current command still to come: the whole frame at its start, none in an idle codec. -/
def FieldPos.remaining (fieldCount : Nat) : FieldPos → Nat
  | .addrP => fieldCount
  | .kindP => 2
  | .valueP => 1
  | .noCmd => 0
  | .complete => 0

/-- R127 (a), (b): the queue begins with the remaining fields of the current command, and whole frames follow. -/
abbrev State.Aligned (s : State) : Prop :=
  s.cs.remaining s.cfg.fieldCount ≤ s.cq.length ∧
  s.cq.length % s.cfg.fieldCount = s.cs.remaining s.cfg.fieldCount % s.cfg.fieldCount

/-- The raw queue operations, which R127 leaves out. -/
def RawQueueOp (i : Instr) : Prop := (∃ b, i = .qEnq b) ∨ i = .qDeq ∨ i = .qReset

/-- R274: the clean-entry premises. -/
abbrev State.CleanEntry (s : State) : Prop :=
  s.fault = none ∧ s.cq = [] ∧ s.cs = .noCmd ∧ s.iniState = .addr ∧ s.rsPhase = .none ∧ s.rxq = [] ∧ s.stValid = false

/-- The transaction in flight that a run's claim names (R299 (b)): where its initiator and codec stand, and its address
byte. DESIGN CHOICE (log entry 13): R299 does not say which elements the claim gives, and the queued bytes are not among
these. -/
structure InFlight where
  iniState : IniState
  cs : FieldPos
  iniAddr : Byte
  deriving DecidableEq, Repr

/-- R299 (b): the initiator is idle at the end, or in the transaction the claim names. -/
def State.initiatorEndsAt (named : Option InFlight) (s : State) : Bool :=
  match named with
  | none => s.iniState == .addr && s.cs.idle
  | some f => s.iniState == f.iniState && s.cs == f.cs && s.iniAddr == f.iniAddr

/-- R299 (a), (b), (c): a run of one block ended cleanly, for a claim that names the transaction in flight, if any. -/
abbrev State.CleanEndNaming (named : Option InFlight) (s : State) : Prop :=
  s.fault = none ∧ s.initiatorEndsAt named = true ∧ s.rsPhase = .none

/-- A clean end of a run whose claim names no transaction in flight. -/
abbrev State.CleanEnd (s : State) : Prop := s.CleanEndNaming none

/-- R299 (d): no composed output event waits for delivery. M's events reach S in the step that emits them (R255), so only
a RESP_TX that no DATA_IN step of M has carried can wait. -/
abbrev TwoNode.NothingWaits (y : TwoNode) : Prop := y.rx = none

/-- R299 (a) to (d): a run of the composition ended cleanly, for a claim that names the transaction in flight on either
block, if any. DESIGN CHOICE (log entry 13): (a), (b) and (c) are asked of both blocks, because every block has both roles
(R254). -/
abbrev TwoNode.CleanEndNaming (onM onS : Option InFlight) (y : TwoNode) : Prop :=
  y.m.CleanEndNaming onM ∧ y.s.CleanEndNaming onS ∧ y.NothingWaits

/-- A clean end of a run of the composition whose claim names no transaction in flight. -/
abbrev TwoNode.CleanEnd (y : TwoNode) : Prop := y.CleanEndNaming none none

/-- R299: a run of one block: words issued one after the other. Its observation is the `trace` of its last state. -/
def State.run : List Word → State → Option State
  | [], s => some s
  | w :: rest, s =>
    match issue w s with
    | none => none
    | some t => State.run rest t

/-- Operations issued one after the other (R61). -/
def execAll : List Instr → State → Host.Outcome State Fault Refusal
  | [], s => .next s
  | i :: is, s =>
    match exec i s with
    | .next t => execAll is t
    | .fault r => .fault r
    | .refused r => .refused r

end Sys2Proof.Machine
end

