-- ==== Sys2Proof/Certificates/Slice0/Obligations.lean ====
section
/-! DEFINITION. The statements about the block, each from the rules of spec/ its docstring names. `s.Ready` says that `s`
is a legal state with no recorded fault; `s.observing es r` is `s` with one observation more. -/

namespace Sys2Proof.Claims

open Sys2Proof.Machine

/-! ## Notions the statements use -/

/-- The match and mask columns of spec/opcode_table.json (R73). -/
def opcodeRows : List (Word × Word) :=
  [(0x01000000, 0xFFFFFFFF), (0x02000000, 0xFF00FFFF), (0x03000000, 0xFFFFFFFF), (0x04000000, 0xFFFFFFFF)] ++
  [(0x10000000, 0xFFFFFFFF), (0x11000000, 0xFFFFFFFF), (0x12000000, 0xFFFFFFFF), (0x13000000, 0xFF0000FF),
   (0x14000000, 0xFF000000)] ++
  [(0x20000000, 0xFF00FFFF), (0x21000000, 0xFF00FFFF), (0x22000000, 0xFFFFFFFF), (0x23000000, 0xFFFFFFFF),
   (0x24000000, 0xFFFFFFFF)] ++
  [(0x30000000, 0xFFFFFFFF), (0x31000000, 0xFF00FFFF), (0x32000000, 0xFF00FFFF)] ++
  [(0x40000000, 0xFFFFFFFF), (0x41000000, 0xFFFFFFFF), (0x42000000, 0xFF00FFFF), (0x43000000, 0xFF00FFFF),
   (0x44000000, 0xFF0000FF), (0x45000000, 0xFF00FFFF)] ++
  [(0x50000000, 0xFF00FFFF), (0x51000000, 0xFF00FFFF), (0x52000000, 0xFFFFFFFF), (0x53000000, 0xFF00FFFF),
   (0x60000000, 0xFFFFFFFF)]

/-- The four kinds of returned value (R85). -/
inductive RetKind where
  | none
  | bool
  | byte
  | command
  deriving DecidableEq, Repr

/-- The kind of a returned value. -/
def kindOfRet : Ret → RetKind
  | .none => .none
  | .bool _ => .bool
  | .byte _ => .byte
  | .command _ => .command

/-- The "returns" column of R73. -/
def returnsColumn : Instr → RetKind
  | .qIsEmpty => .bool
  | .qEnq _ => .none
  | .qDeq => .byte
  | .qReset => .none
  | .cAvail => .bool
  | .cNext => .byte
  | .cSent => .bool
  | .cPrep2 _ _ => .none
  | .cPrep3 _ _ _ => .none
  | .rOnAddr _ => .none
  | .rOnData _ => .none
  | .rOnEnd => .none
  | .rHas => .bool
  | .rTake => .command
  | .iArm => .none
  | .iStep _ => .none
  | .iSetRh _ => .none
  | .sStart => .none
  | .sStop => .none
  | .sByteW _ => .none
  | .sByteR _ => .none
  | .sExpose _ _ => .none
  | .sSetCh _ => .none
  | .dSel _ => .none
  | .dSetP _ => .none
  | .dTick => .bool
  | .dDuty _ => .byte
  | .xReinit => .none

/-- What an operation does to a state, when it answers a next state. -/
def mapNext (f : State → State) : Host.Outcome State Fault Refusal → Host.Outcome State Fault Refusal
  | .next t => .next (f t)
  | .fault r => .fault r
  | .refused r => .refused r

/-- The operations of the FIFO law (R104). -/
def FifoOp (i : Instr) : Prop :=
  (∃ b, i = .qEnq b) ∨ i = .qDeq ∨ (∃ a v, i = .cPrep2 a v) ∨ (∃ a k v, i = .cPrep3 a k v) ∨ i = .cNext

/-- The bytes an operation of the FIFO law appends. -/
def appendedBytes : Instr → List Byte
  | .qEnq b => [b]
  | .cPrep2 a v => [a, v]
  | .cPrep3 a k v => [a, k, v]
  | _ => []

/-- The byte the last operation returned, if it returned one. -/
def returnedByte (t : State) : List Byte :=
  match t.trace.getLast? with
  | some ⟨_, .byte b⟩ => [b]
  | _ => []

/-- The bytes an operation of the FIFO law removes, read off its returned value; the sentinel of an idle codec is no
removal (R104). -/
def removedBytes (i : Instr) (s t : State) : List Byte :=
  match i with
  | .qDeq => returnedByte t
  | .cNext => if s.cs.idle then [] else returnedByte t
  | _ => []

/-- The bytes a run of operations removes, in order. -/
def removedAll : List Instr → State → List Byte
  | [], _ => []
  | i :: is, s =>
    match exec i s with
    | .next t => removedBytes i s t ++ removedAll is t
    | .fault _ => []
    | .refused _ => []

/-- The `n` placeholder bytes of R164: at most `FIELD_COUNT - 1`, and no more than the fields still to come. -/
def placeholders (s : State) : Nat := min (s.cs.remaining s.cfg.fieldCount) (s.cfg.fieldCount - 1)

/-- The field position after `n` removals. -/
def advanceBy (fieldCount : Nat) : Nat → FieldPos → FieldPos
  | 0, p => p
  | n + 1, p => advanceBy fieldCount n (p.advance fieldCount)

end Sys2Proof.Claims

open Sys2Proof Sys2Proof.Machine Sys2Proof.Claims

/-! ## Decoding and the step -/

/-- R7, R61, R77: a step takes the oldest word the host issued, and when it decodes to `i` performs `i`; with no word
issued the block waits (the model's reading of R271, log entry 2). A word
that withFetchWord places is the next one. -/
def Obligations.StepPerformsTheOldestIssuedWord : Prop :=
  (∀ (s : State) (w : Word) (rest : List Word) (i : Instr),
    s.ops = w :: rest → decode w = .ok i → step s = exec i { s with ops := rest }) ∧
  (∀ s : State, s.ops = [] → step s = .next s) ∧
  (∀ (s : State) (nbits w : Nat) (i : Instr), decodeTableWord nbits w = some i → step (s.withFetchWord nbits w) = exec i s)

/-- R74: "An illegal word raises `Fault(ILLEGAL_OP)` ... and changes nothing else." -/
def Obligations.IllegalWordRecordsIllegalOp : Prop :=
  ∀ (s : State) (w : Word) (rest : List Word) (e : DecodeError),
    s.Ready → s.ops = w :: rest → decode w = .error e →
    step s = .next { s with ops := rest, fault := some ⟨.illegalOp, w⟩ }

/-- R70 to R74, words of 95_test_vectors.md: one per family, and illegal ones (V-E2). -/
def Obligations.VectorWordsDecodeAsWritten : Prop :=
  decode 0x02010000 = .ok (.qEnq 0x01) ∧ decode 0x03000000 = .ok .qDeq ∧ decode 0x11000000 = .ok .cNext ∧
  decode 0x130C0A00 = .ok (.cPrep2 0x0C 0x0A) ∧ decode 0x140C017F = .ok (.cPrep3 0x0C 0x01 0x7F) ∧
  decode 0x217F0000 = .ok (.rOnData 0x7F) ∧ decode 0x315A0000 = .ok (.iStep 0x5A) ∧
  decode 0x44005A00 = .ok (.sExpose 0x00 0x5A) ∧ decode 0x430D0000 = .ok (.sByteR 0x0D) ∧
  decode 0x53010000 = .ok (.dDuty 0x01) ∧ decode 0x60000000 = .ok .xReinit ∧
  decode 0x00000000 = .error (.unassignedOpcode 0x00) ∧ decode 0xFF000000 = .error (.unassignedOpcode 0xFF) ∧
  decode 0x01000001 = .error (.reservedByteNotZero 0x01) ∧ decode 0x31000001 = .error (.reservedByteNotZero 0x31)

/-- R70 to R74: every instruction, with every operand, is the one its word decodes to. -/
def Obligations.DecodeOfEncodeIsTheInstruction : Prop :=
  ∀ i : Instr, decode (encode i) = .ok i

/-- R72, R74: every word that decodes is the one word of its instruction ("a strict decode keeps every legal word
canonical", 92_eei_decisions.md D35). -/
def Obligations.DecodedWordIsTheInstructionsWord : Prop :=
  ∀ (w : Word) (i : Instr), decode w = .ok i → encode i = w

/-- R73, R74: the words that decode are those that match a row of the opcode table under its mask. -/
def Obligations.DecodeAcceptsExactlyTheOpcodeTable : Prop :=
  ∀ w : Word, (∃ i, decode w = .ok i) ↔ ∃ row ∈ opcodeRows, w &&& row.2 = row.1

/-! ## Faults and the interface -/

/-- R243: a recorded fault is sticky and the block quiescent, for every operation and every word, X.REINIT included; a
faulted state is no clean end; only POR starts with no fault. -/
def Obligations.FaultedBlockIsQuiescent : Prop :=
  (∀ (s : State) (f : FaultRecord), s.legal = true → s.fault = some f →
    (∀ i : Instr, exec i s = .next s) ∧
    (∀ (w : Word) (rest : List Word), s.ops = w :: rest → step s = .next { s with ops := rest }) ∧
    ∀ named : Option InFlight, ¬ s.CleanEndNaming named) ∧
  (∀ c : Config, (State.por c).fault = none)

/-- R242: an operation that raises a fault changes nothing but `fault`, which holds a code and the operation's own word
(R240); the same of every word issued, the illegal ones included. -/
def Obligations.FaultingOperationChangesOnlyFault : Prop :=
  (∀ (i : Instr) (s t : State), exec i s = .next t → s.fault = none → t.fault ≠ none →
    ∃ c : FaultCode, t = { s with fault := some ⟨c, encode i⟩ }) ∧
  (∀ (s t : State) (w : Word) (rest : List Word), s.ops = w :: rest → step s = .next t → s.fault = none →
    t.fault ≠ none → ∃ c : FaultCode, t = { s with ops := rest, fault := some ⟨c, w⟩ })

/-- R75: in the other configuration a gated operation raises ILLEGAL_OP. -/
def Obligations.ClosedGateRecordsIllegalOp : Prop :=
  ∀ (s : State) (a b c : Byte), s.Ready →
    (s.cfg.fieldCount ≠ 2 → exec (.cPrep2 a b) s = .next { s with fault := some ⟨.illegalOp, encode (.cPrep2 a b)⟩ }) ∧
    (s.cfg.fieldCount ≠ 3 →
      exec (.cPrep3 a b c) s = .next { s with fault := some ⟨.illegalOp, encode (.cPrep3 a b c)⟩ }) ∧
    (s.cfg.rxMode = .sync →
      exec (.rOnAddr a) s = .next { s with fault := some ⟨.illegalOp, encode (.rOnAddr a)⟩ } ∧
      exec (.rOnData a) s = .next { s with fault := some ⟨.illegalOp, encode (.rOnData a)⟩ } ∧
      exec .rOnEnd s = .next { s with fault := some ⟨.illegalOp, encode .rOnEnd⟩ } ∧
      exec .rHas s = .next { s with fault := some ⟨.illegalOp, encode .rHas⟩ } ∧
      exec .rTake s = .next { s with fault := some ⟨.illegalOp, encode .rTake⟩ })

/-- R76: an operand outside its range raises ILLEGAL_OP. -/
def Obligations.OperandOutOfRangeRecordsIllegalOp : Prop :=
  ∀ (s : State) (x v : Byte), s.Ready →
    (1 < x.toNat → exec (.iSetRh x) s = .next { s with fault := some ⟨.illegalOp, encode (.iSetRh x)⟩ }) ∧
    (2 < x.toNat → exec (.sSetCh x) s = .next { s with fault := some ⟨.illegalOp, encode (.sSetCh x)⟩ }) ∧
    (2 ^ s.cfg.localBits - 1 < x.toNat →
      exec (.sExpose x v) s = .next { s with fault := some ⟨.illegalOp, encode (.sExpose x v)⟩ }) ∧
    (1 < x.toNat → exec (.dSel x) s = .next { s with fault := some ⟨.illegalOp, encode (.dSel x)⟩ }) ∧
    (1 < x.toNat → exec (.dDuty x) s = .next { s with fault := some ⟨.illegalOp, encode (.dDuty x)⟩ })

/-- R241: the codes, and the operations that raise each, in the state or mode the row names in its column "raised by"
(C.NEXT mid-command; S.STOP and S.BYTEW by mode). -/
def Obligations.FaultCodesAreRaisedOnlyByTheirOperations : Prop :=
  (∀ (i : Instr) (s t : State) (f : FaultRecord),
    exec i s = .next t → s.fault = none → t.fault = some f →
    match f.code with
    | .cqUnderflow => i = .qDeq ∨ ((i = .cNext ∨ ∃ rx, i = .iStep rx) ∧ s.cs.idle = false)
    | .cqOverflow => (∃ b, i = .qEnq b) ∨ (∃ a v, i = .cPrep2 a v) ∨ ∃ a k v, i = .cPrep3 a k v
    | .rxqUnderflow => i = .rTake
    | .rxqOverflow => i = .rOnEnd ∨ (i = .sStop ∧ s.cfg.rxMode = .queued)
    | .armBusy => i = .iArm ∧ s.iniState ≠ .addr ∧ s.iniState ≠ .done
    | .noCmdHandler => (∃ b, i = .sByteW b) ∧ s.rsPhase = .data ∧ s.cfg.rxMode = .sync ∧ s.chHandler = .none
    | .noResultHandler => (∃ rx, i = .iStep rx) ∧ s.iniState = .dataIn ∧ s.rhSet = false
    | .illegalOp => i.wf s.cfg = false) ∧
  FaultCode.code .cqUnderflow = 1 ∧ FaultCode.code .cqOverflow = 2 ∧ FaultCode.code .rxqUnderflow = 3 ∧
  FaultCode.code .rxqOverflow = 4 ∧ FaultCode.code .armBusy = 5 ∧ FaultCode.code .noCmdHandler = 6 ∧
  FaultCode.code .noResultHandler = 7 ∧ FaultCode.code .illegalOp = 8

/-! ## Command Queue -/

/-- R100: `Q.ISEMPTY` returns whether the queue is empty and changes nothing. R103: `Q.RESET` empties the queue and
leaves the codec as it was. -/
def Obligations.QueueTestAndResetResult : Prop :=
  ∀ s : State, s.Ready →
    exec .qIsEmpty s = .next (s.observing [] (.bool (decide (s.cq.length = 0)))) ∧
    exec .qReset s = .next (State.observing { s with cq := [] } [] .none)

/-- R101: `Q.ENQ b` appends `b`, or raises CQ_OVERFLOW on a full queue. -/
def Obligations.EnqueueAppendsTheByte : Prop :=
  ∀ (s : State) (b : Byte), encode (.qEnq b) = 0x02#8 ++ b ++ 0#8 ++ 0#8 ∧
    (s.Ready →
      (s.cq.length ≠ s.cfg.cqCapacity →
        exec (.qEnq b) s = .next (State.observing { s with cq := s.cq ++ [b] } [] .none)) ∧
      (s.cq.length = s.cfg.cqCapacity →
        exec (.qEnq b) s = .next { s with fault := some ⟨.cqOverflow, encode (.qEnq b)⟩ }))

/-- R102: `Q.DEQ` removes and returns the head byte, or raises CQ_UNDERFLOW; `cs` does not advance. -/
def Obligations.DequeueReturnsTheHead : Prop :=
  encode .qDeq = 0x03000000 ∧
  ∀ s : State, s.Ready →
    (∀ (b : Byte) (rest : List Byte), s.cq = b :: rest →
      exec .qDeq s = .next (State.observing { s with cq := rest } [] (.byte b))) ∧
    (s.cq = [] → exec .qDeq s = .next { s with fault := some ⟨.cqUnderflow, encode .qDeq⟩ })

/-- R104: over any sequence of the FIFO operations with no fault, the bytes removed are the bytes appended, in append
order. -/
def Obligations.RemovedBytesAreTheAppendedBytesInOrder : Prop :=
  ∀ (is : List Instr) (s t : State), (∀ i ∈ is, FifoOp i) → s.fault = none →
    execAll is s = .next t → t.fault = none →
    s.cq ++ is.flatMap appendedBytes = removedAll is s ++ t.cq

/-! ## Transmit codec -/

/-- R120: `C.AVAIL` is true iff the queue is non-empty, and re-arms an idle codec over a non-empty queue only. -/
def Obligations.AvailableRearmsAnIdleCodec : Prop :=
  encode .cAvail = 0x10000000 ∧
  ∀ s : State, s.Ready →
    (s.cq = [] → exec .cAvail s = .next (s.observing [] (.bool false))) ∧
    (s.cq ≠ [] → s.cs = .noCmd ∨ s.cs = .complete →
      exec .cAvail s = .next (State.observing { s with cs := .addrP } [] (.bool true))) ∧
    (s.cq ≠ [] → s.cs ≠ .noCmd → s.cs ≠ .complete → exec .cAvail s = .next (s.observing [] (.bool true)))

/-- R121: `C.NEXT` returns the sentinel 0 on an idle codec; else it removes and returns the head byte and advances `cs`,
or raises CQ_UNDERFLOW on an empty queue. -/
def Obligations.NextByteAdvancesTheFieldPosition : Prop :=
  encode .cNext = 0x11000000 ∧
  ∀ s : State, s.Ready →
    (s.cs = .noCmd ∨ s.cs = .complete → exec .cNext s = .next (s.observing [] (.byte 0))) ∧
    (s.cs ≠ .noCmd → s.cs ≠ .complete → s.cq = [] →
      exec .cNext s = .next { s with fault := some ⟨.cqUnderflow, encode .cNext⟩ }) ∧
    (∀ (b : Byte) (rest : List Byte), s.cq = b :: rest →
      (s.cs = .addrP → exec .cNext s =
        .next (State.observing { s with cq := rest, cs := if s.cfg.fieldCount = 3 then .kindP else .valueP } [] (.byte b))) ∧
      (s.cs = .kindP → exec .cNext s = .next (State.observing { s with cq := rest, cs := .valueP } [] (.byte b))) ∧
      (s.cs = .valueP → exec .cNext s = .next (State.observing { s with cq := rest, cs := .complete } [] (.byte b))))

/-- R122: `C.SENT` returns whether `cs` is COMPLETE. -/
def Obligations.FullySentIffComplete : Prop :=
  encode .cSent = 0x12000000 ∧
  ∀ s : State, s.Ready → exec .cSent s = .next (s.observing [] (.bool (decide (s.cs = .complete))))

/-- R123: `C.PREP2 a, v` appends the whole frame and re-arms an idle codec or one over an empty queue, or raises
CQ_OVERFLOW. -/
def Obligations.PrepareTwoByteCommand : Prop :=
  ∀ (s : State) (a v : Byte), encode (.cPrep2 a v) = 0x13#8 ++ a ++ v ++ 0#8 ∧
    (s.Ready → s.cfg.fieldCount = 2 →
      (s.cq.length + 2 ≤ s.cfg.cqCapacity →
        exec (.cPrep2 a v) s = .next (State.observing
          { s with cq := s.cq ++ [a, v],
                   cs := if s.cs = .noCmd ∨ s.cs = .complete ∨ s.cq = [] then .addrP else s.cs } [] .none)) ∧
      (s.cfg.cqCapacity < s.cq.length + 2 →
        exec (.cPrep2 a v) s = .next { s with fault := some ⟨.cqOverflow, encode (.cPrep2 a v)⟩ }))

/-- R124: `C.PREP3 a, k, v`, the 3-byte revision. -/
def Obligations.PrepareThreeByteCommand : Prop :=
  ∀ (s : State) (a k v : Byte), encode (.cPrep3 a k v) = 0x14#8 ++ a ++ k ++ v ∧
    (s.Ready → s.cfg.fieldCount = 3 →
      (s.cq.length + 3 ≤ s.cfg.cqCapacity →
        exec (.cPrep3 a k v) s = .next (State.observing
          { s with cq := s.cq ++ [a, k, v],
                   cs := if s.cs = .noCmd ∨ s.cs = .complete ∨ s.cq = [] then .addrP else s.cs } [] .none)) ∧
      (s.cfg.cqCapacity < s.cq.length + 3 →
        exec (.cPrep3 a k v) s = .next { s with fault := some ⟨.cqOverflow, encode (.cPrep3 a k v)⟩ }))

/-- R127: the queue stays aligned with the field position under every operation but the raw queue operations. -/
def Obligations.CodecStaysAlignedWithTheQueue : Prop :=
  ∀ (i : Instr) (s t : State), exec i s = .next t → ¬ RawQueueOp i → s.KindLegal → s.Aligned →
    t.KindLegal ∧ t.Aligned

/-- R127: "Under these invariants no `C.NEXT` the initiator issues can fault CQ_UNDERFLOW." -/
def Obligations.AlignedInitiatorNeverUnderflows : Prop :=
  ∀ (s t : State) (rx : Byte), s.fault = none → s.KindLegal → s.Aligned → exec (.iStep rx) s = .next t →
    ∀ f, t.fault = some f → f.code ≠ .cqUnderflow

/-- R283 (c): `Q.RESET` while the codec is mid-command leaves `cs` mid-command over an empty queue, so the next `C.NEXT`
faults CQ_UNDERFLOW. -/
def Obligations.QueueResetMidCommandMakesNextUnderflow : Prop :=
  ∀ s : State, s.Ready → s.cs ≠ .noCmd → s.cs ≠ .complete →
    execAll [.qReset, .cNext] s =
      .next { State.observing { s with cq := [] } [] .none with fault := some ⟨.cqUnderflow, 0x11000000⟩ }

/-! ## Receive codec -/

/-- R140, R141: `R.ONADDR a` opens a staging command; `R.ONDATA b` shifts the prior value into the kind in the 3-byte
revision, stores `b` as the value and counts, saturating. -/
def Obligations.StagingCommandIsOpenedAndFilled : Prop :=
  ∀ (s : State) (a : Byte),
    encode (.rOnAddr a) = 0x20#8 ++ a ++ 0#8 ++ 0#8 ∧ encode (.rOnData a) = 0x21#8 ++ a ++ 0#8 ++ 0#8 ∧
    (s.Ready → s.cfg.rxMode = .queued →
      exec (.rOnAddr a) s = .next (State.observing
        { s with stValid := true, stAddr := a, stKind := 0, stValue := 0, stNd := 0 } [] .none) ∧
      exec (.rOnData a) s = .next (State.observing
        { s with stKind := if s.cfg.fieldCount = 3 then s.stValue else s.stKind, stValue := a,
                 stNd := if s.stNd.toNat < 255 then s.stNd + 1 else s.stNd } [] .none))

/-- R142: `R.ONEND` pushes a completed staging command, or drops an incomplete one; RXQ_OVERFLOW when a completed
command meets a full receive queue. -/
def Obligations.TransactionEndPushesACompletedCommand : Prop :=
  encode .rOnEnd = 0x22000000 ∧
  ∀ s : State, s.Ready → s.cfg.rxMode = .queued →
    (s.stValid = true → s.cfg.fieldCount - 1 ≤ s.stNd.toNat → s.rxq.length ≠ s.cfg.rxqCapacity →
      exec .rOnEnd s = .next (State.observing
        { s with rxq := s.rxq ++ [⟨s.stAddr, s.stKind, s.stValue⟩], stValid := false } [] .none)) ∧
    (s.stValid = true → s.cfg.fieldCount - 1 ≤ s.stNd.toNat → s.rxq.length = s.cfg.rxqCapacity →
      exec .rOnEnd s = .next { s with fault := some ⟨.rxqOverflow, encode .rOnEnd⟩ }) ∧
    (s.stValid = false ∨ s.stNd.toNat < s.cfg.fieldCount - 1 →
      exec .rOnEnd s = .next (State.observing { s with stValid := false } [] .none))

/-- R143, R144: `R.HAS` returns whether a command waits; `R.TAKE` removes and returns the oldest, whole, or raises
RXQ_UNDERFLOW. -/
def Obligations.PendingCommandsAreTakenInOrder : Prop :=
  encode .rHas = 0x23000000 ∧ encode .rTake = 0x24000000 ∧
  ∀ s : State, s.Ready → s.cfg.rxMode = .queued →
    exec .rHas s = .next (s.observing [] (.bool (decide (0 < s.rxq.length)))) ∧
    (∀ (c : Command) (rest : List Command), s.rxq = c :: rest →
      exec .rTake s = .next (State.observing { s with rxq := rest } [] (.command c))) ∧
    (s.rxq = [] → exec .rTake s = .next { s with fault := some ⟨.rxqUnderflow, encode .rTake⟩ })

/-! ## Bus Initiator Engine -/

/-- R160: `I.ARM` emits BUS_START and sets ADDR from ADDR and DONE; ARM_BUSY while a transaction is in flight. -/
def Obligations.ArmStartsFromAddrOrDoneOnly : Prop :=
  encode .iArm = 0x30000000 ∧
  ∀ s : State, s.Ready →
    (s.iniState = .addr ∨ s.iniState = .done →
      exec .iArm s = .next (State.observing { s with iniState := .addr } [.busStart] .none)) ∧
    (s.iniState ≠ .addr → s.iniState ≠ .done →
      exec .iArm s = .next { s with fault := some ⟨.armBusy, encode .iArm⟩ })

/-- R162: the step in ADDR places the next byte as the address and goes by its direction bit, or does nothing when
nothing is queued. It never faults. -/
def Obligations.AddressStepPlacesTheAddressByte : Prop :=
  ∀ (s : State) (rx : Byte), s.Ready → s.iniState = .addr →
    (s.cq = [] → exec (.iStep rx) s = .next (s.observing [] .none)) ∧
    (∀ (a : Byte) (rest : List Byte), s.cq = a :: rest →
      exec (.iStep rx) s = .next (State.observing
        { s with cq := rest,
                 cs := (if s.cs = .noCmd ∨ s.cs = .complete then FieldPos.addrP else s.cs).advance s.cfg.fieldCount,
                 iniAddr := a,
                 iniState := if a.getLsbD 0 = true then .prepIn else .dataOut } [.busTx a] .none))

/-- R163: the step in DATA_OUT places the next codec byte and goes to STOP once the command is fully sent. NoCmdIdle, an
invariant of every run (LegalInvariantIsKeptByEveryStep), rules out NOCMD here. -/
def Obligations.DataOutStepPlacesOneByte : Prop :=
  ∀ (s : State) (rx : Byte), s.Ready → s.NoCmdIdle → s.iniState = .dataOut →
    (s.cs = .complete →
      exec (.iStep rx) s = .next (State.observing { s with iniState := .stop } [.busTx 0] .none)) ∧
    (s.cs ≠ .complete → s.cq = [] →
      exec (.iStep rx) s = .next { s with fault := some ⟨.cqUnderflow, encode (.iStep rx)⟩ }) ∧
    (∀ (b : Byte) (rest : List Byte), s.cs ≠ .complete → s.cq = b :: rest →
      exec (.iStep rx) s = .next (State.observing
        { s with cq := rest, cs := s.cs.advance s.cfg.fieldCount,
                 iniState := if s.cs = .valueP then .stop else .dataOut } [.busTx b] .none))

/-- R164: the step in PREP_IN discards the fields still to come, at most `FIELD_COUNT - 1` of them, and asserts receive
enable. -/
def Obligations.PrepareInStepDiscardsThePlaceholders : Prop :=
  ∀ (s : State) (rx : Byte), s.Ready → s.iniState = .prepIn →
    (placeholders s ≤ s.cq.length →
      exec (.iStep rx) s = .next (State.observing
        { s with cq := s.cq.drop (placeholders s), cs := advanceBy s.cfg.fieldCount (placeholders s) s.cs,
                 iniState := .dataIn } [.busRcen] .none)) ∧
    (s.cq.length < placeholders s →
      exec (.iStep rx) s = .next { s with fault := some ⟨.cqUnderflow, encode (.iStep rx)⟩ })

/-- R165: the step in DATA_IN hands the byte the bus presents to the result handler, with the transaction's raw address
byte, and negative-acknowledges; NO_RESULT_HANDLER when none is registered. -/
def Obligations.DataInStepDeliversTheResult : Prop :=
  ∀ (s : State) (rx : Byte), s.Ready → s.iniState = .dataIn →
    (s.rhSet = true → exec (.iStep rx) s =
      .next (State.observing { s with iniState := .stop } [.result s.iniAddr rx, .busNack] .none)) ∧
    (s.rhSet = false → exec (.iStep rx) s = .next { s with fault := some ⟨.noResultHandler, encode (.iStep rx)⟩ })

/-- R166, R167: the step in STOP asserts the stop condition; the step in DONE re-arms a start condition if another
command is queued, and goes to ADDR. -/
def Obligations.StopAndDoneStepsEndTheTransaction : Prop :=
  ∀ (s : State) (rx : Byte), s.Ready →
    (s.iniState = .stop →
      exec (.iStep rx) s = .next (State.observing { s with iniState := .done } [.busStop] .none)) ∧
    (s.iniState = .done → s.cq = [] →
      exec (.iStep rx) s = .next (State.observing { s with iniState := .addr } [] .none)) ∧
    (s.iniState = .done → s.cq ≠ [] →
      exec (.iStep rx) s = .next (State.observing
        { s with iniState := .addr, cs := if s.cs = .noCmd ∨ s.cs = .complete then .addrP else s.cs } [.busStart] .none))

/-- R168, R190: `I.SETRH h` and `S.SETCH h` register or unregister a handler; a later call overwrites. -/
def Obligations.RegistrationSetsTheHandlerKind : Prop :=
  ∀ s : State, s.Ready →
    exec (.iSetRh 0) s = .next (State.observing { s with rhSet := false } [] .none) ∧
    exec (.iSetRh 1) s = .next (State.observing { s with rhSet := true } [] .none) ∧
    exec (.sSetCh 0) s = .next (State.observing { s with chHandler := .none } [] .none) ∧
    exec (.sSetCh 1) s = .next (State.observing { s with chHandler := .pwm } [] .none) ∧
    exec (.sSetCh 2) s = .next (State.observing { s with chHandler := .external } [] .none)

/-- R161, 93_implementation_defined.md I13: only DATA_IN reads the operand of `I.STEP`. -/
def Obligations.StepOperandIsReadInDataInOnly : Prop :=
  ∀ (s t : State) (rx rx' : Byte), s.fault = none → s.iniState ≠ .dataIn →
    exec (.iStep rx) s = .next t → t.fault = none → exec (.iStep rx') s = .next t

/-- R171, the §8 property of the initiator: one queued 2-byte write, armed and stepped four times, emits exactly one
BUS_START, two BUS_TX and one BUS_STOP, in that order, and ends idle; cleanly (R299) outside a responder transaction. -/
def Obligations.QueuedWriteEmitsStartTwoBytesStop : Prop :=
  ∀ (s : State) (a v r1 r2 r3 r4 : Byte), s.Ready → s.cfg.fieldCount = 2 → s.cq = [] → s.iniState = .addr →
    a.getLsbD 0 = false →
    ∃ t, execAll [.cPrep2 a v, .iArm, .iStep r1, .iStep r2, .iStep r3, .iStep r4] s = .next t ∧
      emitted s t = [.busStart, .busTx a, .busTx v, .busStop] ∧
      t.iniState = .addr ∧ t.cq = [] ∧ t.cs = .complete ∧ t.iniAddr = a ∧ t.fault = none ∧
      (s.rsPhase = .none → t.CleanEnd)

/-! ## Bus Responder Engine -/

/-- R180: `S.START` restarts the transaction tracking; the staging command is not touched. -/
def Obligations.StartRestartsTheTracking : Prop :=
  encode .sStart = 0x40000000 ∧
  ∀ s : State, s.Ready → exec .sStart s =
    .next (State.observing { s with rsPhase := .addr, rsDir := .write, rsLocal := 0, rsRdptr := 0 } [] .none)

/-- R181: `S.STOP` ends the transaction; in QUEUED mode it pushes a completed staging command, or raises RXQ_OVERFLOW. -/
def Obligations.StopEndsTheTransaction : Prop :=
  encode .sStop = 0x41000000 ∧
  ∀ s : State, s.Ready →
    (s.cfg.rxMode = .sync → exec .sStop s = .next (State.observing { s with rsPhase := .none } [] .none)) ∧
    (s.cfg.rxMode = .queued → s.stValid = true → s.cfg.fieldCount - 1 ≤ s.stNd.toNat →
      s.rxq.length ≠ s.cfg.rxqCapacity →
      exec .sStop s = .next (State.observing
        { s with rxq := s.rxq ++ [⟨s.stAddr, s.stKind, s.stValue⟩], stValid := false, rsPhase := .none } [] .none)) ∧
    (s.cfg.rxMode = .queued → s.stValid = true → s.cfg.fieldCount - 1 ≤ s.stNd.toNat →
      s.rxq.length = s.cfg.rxqCapacity →
      exec .sStop s = .next { s with fault := some ⟨.rxqOverflow, encode .sStop⟩ }) ∧
    (s.cfg.rxMode = .queued → s.stValid = false ∨ s.stNd.toNat < s.cfg.fieldCount - 1 →
      exec .sStop s = .next (State.observing { s with stValid := false, rsPhase := .none } [] .none))

/-- R188: a byte event when no start has been seen has no effect. -/
def Obligations.ByteEventWithoutStartHasNoEffect : Prop :=
  ∀ (s : State) (b : Byte), s.Ready → s.rsPhase = .none →
    exec (.sByteW b) s = .next (s.observing [] .none) ∧ exec (.sByteR b) s = .next (s.observing [] .none)

/-- R183: a write-direction address byte records the local sub-address, and in QUEUED mode opens a staging command. The
local sub-address is `(b >> 1) & LMASK` (R79). -/
def Obligations.WriteAddressByteRecordsTheSubAddress : Prop :=
  ∀ (s : State) (b : Byte), s.Ready → s.rsPhase = .addr →
    (s.cfg.rxMode = .sync → exec (.sByteW b) s = .next (State.observing
      { s with rsDir := .write, rsLocal := (b >>> 1) &&& BitVec.ofNat 8 (2 ^ s.cfg.localBits - 1), rsPhase := .data }
      [] .none)) ∧
    (s.cfg.rxMode = .queued → exec (.sByteW b) s = .next (State.observing
      { s with rsDir := .write, rsLocal := (b >>> 1) &&& BitVec.ofNat 8 (2 ^ s.cfg.localBits - 1), rsPhase := .data,
               stValid := true, stAddr := (b >>> 1) &&& BitVec.ofNat 8 (2 ^ s.cfg.localBits - 1),
               stKind := 0, stValue := 0, stNd := 0 } [] .none))

/-- R184, R191: a write-direction data byte is forwarded to the registered command handler in SYNC mode, which for the
PWM handler sets the channel of local sub-address 0 or 1 and for 2 and 3 has no effect on the Duty Scheduler;
NO_CMD_HANDLER when none is registered; in QUEUED mode it goes to the staging command. -/
def Obligations.WriteDataByteIsForwarded : Prop :=
  ∀ (s : State) (b : Byte), s.Ready → s.rsPhase = .data →
    (s.cfg.rxMode = .sync → s.chHandler = .none →
      exec (.sByteW b) s = .next { s with fault := some ⟨.noCmdHandler, encode (.sByteW b)⟩ }) ∧
    (s.cfg.rxMode = .sync → s.chHandler = .external →
      exec (.sByteW b) s = .next (s.observing [.cmd s.rsLocal b] .none)) ∧
    (s.cfg.rxMode = .sync → s.chHandler = .pwm → s.rsLocal = 0 →
      exec (.sByteW b) s = .next (State.observing
        { s with dsSel := .ch0, dsPending := ⟨b, s.dsPending.ch1⟩ } [.cmd 0 b] .none)) ∧
    (s.cfg.rxMode = .sync → s.chHandler = .pwm → s.rsLocal = 1 →
      exec (.sByteW b) s = .next (State.observing
        { s with dsSel := .ch1, dsPending := ⟨s.dsPending.ch0, b⟩ } [.cmd 1 b] .none)) ∧
    (s.cfg.rxMode = .sync → s.chHandler = .pwm → 1 < s.rsLocal.toNat →
      exec (.sByteW b) s = .next (s.observing [.cmd s.rsLocal b] .none)) ∧
    (s.cfg.rxMode = .queued →
      exec (.sByteW b) s = .next (State.observing
        { s with stKind := if s.cfg.fieldCount = 3 then s.stValue else s.stKind, stValue := b,
                 stNd := if s.stNd.toNat < 255 then s.stNd + 1 else s.stNd } [] .none))

/-- R186: a read-direction address byte supplies the table entry of its local sub-address. -/
def Obligations.ReadAddressByteSuppliesItsEntry : Prop :=
  ∀ (s : State) (b v : Byte), s.Ready → s.rsPhase = .addr →
    s.regs[b.toNat / 2 % 2 ^ s.cfg.localBits]? = some v →
    exec (.sByteR b) s = .next (State.observing
      { s with rsDir := .read, rsLocal := BitVec.ofNat 8 (b.toNat / 2 % 2 ^ s.cfg.localBits),
               rsRdptr := BitVec.ofNat 8 (b.toNat / 2 % 2 ^ s.cfg.localBits), rsPhase := .data } [.respTx v] .none)

/-- R187: a later read event supplies the next entry, wrapping modulo `REG_COUNT`, with READ_AUTO_INCREMENT, and the same
entry again without it. -/
def Obligations.LaterReadEventSuppliesTheNextEntry : Prop :=
  ∀ (s : State) (b v : Byte), s.Ready → s.rsPhase = .data →
    (s.cfg.readAutoIncrement = true → s.regs[(s.rsRdptr.toNat + 1) % 2 ^ s.cfg.localBits]? = some v →
      exec (.sByteR b) s = .next (State.observing
        { s with rsRdptr := BitVec.ofNat 8 ((s.rsRdptr.toNat + 1) % 2 ^ s.cfg.localBits) } [.respTx v] .none)) ∧
    (s.cfg.readAutoIncrement = false → s.regs[s.rsRdptr.toNat]? = some v →
      exec (.sByteR b) s = .next (s.observing [.respTx v] .none))

/-- R189, R61 (2): `S.EXPOSE l, v` writes the entry; the read that selects it supplies `v`, and every other entry is as
before. -/
def Obligations.ExposedValueIsTheOneSupplied : Prop :=
  ∀ (s : State) (l v : Byte), s.Ready → l.toNat < 2 ^ s.cfg.localBits →
    ∃ t, exec (.sExpose l v) s = .next t ∧
      t = State.observing { s with regs := t.regs } [] .none ∧
      (∀ n, t.regs[n]? = if n = l.toNat then some v else s.regs[n]?) ∧
      (s.rsPhase = .addr → ∀ b, b.toNat / 2 % 2 ^ s.cfg.localBits = l.toNat →
        ∃ u, exec (.sByteR b) t = .next u ∧ emitted t u = [.respTx v])

/-! ## Duty Scheduler -/

/-- R200, R201: `D.SEL i` selects the channel; `D.SETP v` writes its pending value and no other duty value. -/
def Obligations.SelectAndSetPendingResult : Prop :=
  ∀ (s : State) (v : Byte), s.Ready →
    exec (.dSel 0) s = .next (State.observing { s with dsSel := .ch0 } [] .none) ∧
    exec (.dSel 1) s = .next (State.observing { s with dsSel := .ch1 } [] .none) ∧
    (s.dsSel = .ch0 → exec (.dSetP v) s =
      .next (State.observing { s with dsPending := ⟨v, s.dsPending.ch1⟩ } [] .none)) ∧
    (s.dsSel = .ch1 → exec (.dSetP v) s =
      .next (State.observing { s with dsPending := ⟨s.dsPending.ch0, v⟩ } [] .none))

/-- R202: `D.TICK` toggles the phase, latches both channels and returns true when channel 1 is the driven one. -/
def Obligations.TickTogglesAndLatches : Prop :=
  encode .dTick = 0x52000000 ∧
  ∀ s : State, s.Ready →
    (s.dsPhase = .ch0 → exec .dTick s =
      .next (State.observing { s with dsPhase := .ch1, dsCurrent := s.dsPending } [] (.bool true))) ∧
    (s.dsPhase = .ch1 → exec .dTick s =
      .next (State.observing { s with dsPhase := .ch0, dsCurrent := s.dsPending } [] (.bool false)))

/-- R203, R204: `D.DUTY c` returns the current value of the driving channel and 0 for the other, so at most one of the
two is nonzero. -/
def Obligations.DutyIsTheDrivenChannelsOnly : Prop :=
  ∀ s : State, s.Ready →
    ∃ d0 d1 : Byte, exec (.dDuty 0) s = .next (s.observing [] (.byte d0)) ∧
      exec (.dDuty 1) s = .next (s.observing [] (.byte d1)) ∧
      (s.dsPhase = .ch0 → d0 = s.dsCurrent.ch0 ∧ d1 = 0) ∧ (s.dsPhase = .ch1 → d0 = 0 ∧ d1 = s.dsCurrent.ch1) ∧
      (d0 = 0 ∨ d1 = 0)

/-- R205: a pending value is output within at most two ticks: after one if its channel was not driving, after two if it
was; the driven channel alternates. -/
def Obligations.PendingValueIsOutputWithinTwoTicks : Prop :=
  ∀ (s : State) (v : Byte), s.Ready →
    (s.dsPhase = .ch1 → ∃ t, execAll [.dSel 0, .dSetP v, .dTick, .dDuty 0] s = .next t ∧
      t.trace.getLast? = some ⟨[], .byte v⟩ ∧ t.dsPhase = .ch0) ∧
    (s.dsPhase = .ch0 → ∃ t, execAll [.dSel 0, .dSetP v, .dTick, .dTick, .dDuty 0] s = .next t ∧
      t.trace.getLast? = some ⟨[], .byte v⟩ ∧ t.dsPhase = .ch0) ∧
    (s.dsPhase = .ch0 → ∃ t, execAll [.dSel 1, .dSetP v, .dTick, .dDuty 1] s = .next t ∧
      t.trace.getLast? = some ⟨[], .byte v⟩ ∧ t.dsPhase = .ch1) ∧
    (s.dsPhase = .ch1 → ∃ t, execAll [.dSel 1, .dSetP v, .dTick, .dTick, .dDuty 1] s = .next t ∧
      t.trace.getLast? = some ⟨[], .byte v⟩ ∧ t.dsPhase = .ch1)

/-! ## System -/

/-- R220: `X.REINIT` gives the engines, codecs and queues their POR values and leaves the table, the registrations and
the Duty Scheduler; it emits nothing. Then `C.AVAIL` is false and `Q.ISEMPTY` true (R272). -/
def Obligations.ReinitializeResetsEnginesAndQueues : Prop :=
  encode .xReinit = 0x60000000 ∧
  ∀ s : State, s.Ready →
    ∃ t, t = State.observing
        { State.por s.cfg with
          regs := s.regs, chHandler := s.chHandler, rhSet := s.rhSet, dsPending := s.dsPending,
          dsCurrent := s.dsCurrent, dsSel := s.dsSel, dsPhase := s.dsPhase, ops := s.ops, trace := s.trace } [] .none ∧
      exec .xReinit s = .next t ∧
      exec .cAvail t = .next (t.observing [] (.bool false)) ∧
      exec .qIsEmpty t = .next (t.observing [] (.bool true))

/-- R270, R274: at POR, with any well-formed configuration, the state is legal and meets the clean-entry premises, and
State.reset is the POR state of the reference configuration; an ill-formed configuration gives no block (R9). -/
def Obligations.PowerOnStateIsLegalAndClean : Prop :=
  (∀ c : Config, c.wf = true → State.construct c = .ok (State.por c) ∧ (State.por c).Inv ∧ (State.por c).Aligned ∧
    (State.por c).CleanEntry ∧ (∀ n, n < 2 ^ c.localBits → (State.por c).regs[n]? = some 0)) ∧
  (∀ c : Config, c.wf = false → State.construct c = .error .illFormedConfig) ∧
  State.reset = State.por Config.reference ∧ State.reset.Inv

/-! ## The whole machine -/

/-- R20, R21, R28, R29, R30, R33, R127 (c): every step of a legal state keeps the legal values. -/
def Obligations.LegalInvariantIsKeptByEveryStep : Prop :=
  ∀ s t : State, s.Inv → step s = .next t → t.Inv

/-- R14, R280: no operation holds: from a legal state every step answers a next state. -/
def Obligations.LegalStateAlwaysSteps : Prop :=
  ∀ s : State, s.legal = true → ∃ t, step s = .next t

/-- R11: no operation writes the configuration; and no operation issues words. -/
def Obligations.ConfigurationNeverChanges : Prop :=
  (∀ (i : Instr) (s t : State), exec i s = .next t → t.cfg = s.cfg ∧ t.ops = s.ops) ∧
  (∀ s t : State, step s = .next t → t.cfg = s.cfg ∧ t.ops = s.ops.tail)

/-- R39, R85: an operation that raises no fault adds one observation, whose returned value is of the kind the "returns"
column of R73 gives it; a faulting one adds none. -/
def Obligations.OperationAddsOneObservationOfItsKind : Prop :=
  ∀ (i : Instr) (s t : State), exec i s = .next t → s.fault = none →
    (t.fault = none → ∃ (es : List OutEvent) (r : Ret), t.trace = s.trace ++ [⟨es, r⟩] ∧ kindOfRet r = returnsColumn i) ∧
    (t.fault ≠ none → t.trace = s.trace)

/-- R20, the "written by" column, with the calls of R181, R183, R184 and R191: an operation that is not listed for an
element leaves it as it was. -/
def Obligations.ElementsChangeOnlyByTheirWriters : Prop :=
  ∀ (i : Instr) (s t : State), exec i s = .next t →
    (t.cq = s.cq ∨ (∃ b, i = .qEnq b) ∨ i = .qDeq ∨ i = .qReset ∨ i = .cNext ∨ (∃ a v, i = .cPrep2 a v) ∨
      (∃ a k v, i = .cPrep3 a k v) ∨ (∃ rx, i = .iStep rx) ∨ i = .xReinit) ∧
    (t.cs = s.cs ∨ i = .cAvail ∨ i = .cNext ∨ (∃ a v, i = .cPrep2 a v) ∨ (∃ a k v, i = .cPrep3 a k v) ∨
      (∃ rx, i = .iStep rx) ∨ i = .xReinit) ∧
    (t.iniState = s.iniState ∨ i = .iArm ∨ (∃ rx, i = .iStep rx) ∨ i = .xReinit) ∧
    (t.iniAddr = s.iniAddr ∨ (∃ rx, i = .iStep rx) ∨ i = .xReinit) ∧
    (t.rhSet = s.rhSet ∨ ∃ h, i = .iSetRh h) ∧
    (t.rsPhase = s.rsPhase ∨ i = .sStart ∨ i = .sStop ∨ (∃ b, i = .sByteW b) ∨ (∃ b, i = .sByteR b) ∨ i = .xReinit) ∧
    (t.rsDir = s.rsDir ∨ i = .sStart ∨ (∃ b, i = .sByteW b) ∨ (∃ b, i = .sByteR b) ∨ i = .xReinit) ∧
    (t.rsLocal = s.rsLocal ∨ i = .sStart ∨ (∃ b, i = .sByteW b) ∨ (∃ b, i = .sByteR b) ∨ i = .xReinit) ∧
    (t.rsRdptr = s.rsRdptr ∨ i = .sStart ∨ (∃ b, i = .sByteR b) ∨ i = .xReinit) ∧
    (t.regs = s.regs ∨ ∃ l v, i = .sExpose l v) ∧
    (t.chHandler = s.chHandler ∨ ∃ h, i = .sSetCh h) ∧
    (t.stValid = s.stValid ∨ (∃ a, i = .rOnAddr a) ∨ i = .rOnEnd ∨ (∃ b, i = .sByteW b) ∨ i = .sStop ∨ i = .xReinit) ∧
    (t.stAddr = s.stAddr ∨ (∃ a, i = .rOnAddr a) ∨ (∃ b, i = .sByteW b) ∨ i = .xReinit) ∧
    ((t.stKind = s.stKind ∧ t.stValue = s.stValue ∧ t.stNd = s.stNd) ∨ (∃ a, i = .rOnAddr a) ∨ (∃ b, i = .rOnData b) ∨
      (∃ b, i = .sByteW b) ∨ i = .xReinit) ∧
    (t.rxq = s.rxq ∨ i = .rOnEnd ∨ i = .rTake ∨ i = .sStop ∨ i = .xReinit) ∧
    (t.dsPending = s.dsPending ∨ (∃ v, i = .dSetP v) ∨ ∃ b, i = .sByteW b) ∧
    (t.dsCurrent = s.dsCurrent ∨ i = .dTick) ∧
    (t.dsSel = s.dsSel ∨ (∃ c, i = .dSel c) ∨ ∃ b, i = .sByteW b) ∧
    (t.dsPhase = s.dsPhase ∨ i = .dTick)

/-- R27: no rule reads `rs_dir`: what an operation does is the same whatever its value. -/
def Obligations.DirectionIsReadByNoRule : Prop :=
  ∀ (i : Instr) (s : State) (d : Direction),
    ∃ d' : Direction, exec i { s with rsDir := d } = mapNext (fun t => { t with rsDir := d' }) (exec i s)

/-- R184, R190: in QUEUED mode `ch_handler` is never read. -/
def Obligations.CommandHandlerIsNotReadWhenQueued : Prop :=
  ∀ (i : Instr) (s : State) (h : HandlerKind), s.cfg.rxMode = .queued →
    ∃ h' : HandlerKind, exec i { s with chHandler := h } = mapNext (fun t => { t with chHandler := h' }) (exec i s)

/-- R58: each of the operations it lists, repeated with the same operands, leaves the same state (the observation of the
second apart). That no other operation does is not claimed (log entry 12). -/
def Obligations.IdempotentOperationsRepeat : Prop :=
  ∀ (i : Instr) (s t : State),
    (i = .qIsEmpty ∨ i = .cSent ∨ i = .rHas ∨ (∃ c, i = .dDuty c) ∨ i = .qReset ∨ i = .xReinit ∨
      (∃ l v, i = .sExpose l v) ∨ (∃ c, i = .dSel c) ∨ (∃ v, i = .dSetP v) ∨ (∃ h, i = .sSetCh h) ∨ ∃ h, i = .iSetRh h) →
    exec i s = .next t → ∃ u, exec i t = .next u ∧ { u with trace := t.trace } = t

/-! ## Two blocks over one bus (R255) -/

/-- R255, R191, R205: a 2-byte write queued on an idle master and stepped to its end sets the pending duty of the channel
the address selects on the matched SYNC responder with the PWM handler, and no other, and ends cleanly (R299).
That no event waits when a RESP_TX byte waited at the start is the model's reading: BUS_START drops it (DEDUCED, log entry 7).
That the clean end is asked of both blocks is the model's choice (log entry 13). -/
def Obligations.MasterWriteReachesTheRespondersChannel : Prop :=
  ∀ (y : TwoNode) (a v r1 r2 r3 r4 : Byte) (c : Channel),
    y.wf = true → y.m.Ready → y.s.Ready → y.link = .idle →
    y.m.cfg.fieldCount = 2 → y.m.cq = [] → y.m.iniState = .addr →
    y.s.cfg.rxMode = .sync → y.s.chHandler = .pwm →
    a.getLsbD 0 = false → addressMatches y.s.cfg a = true → channelOperand (decodeLocal y.s.cfg a) = some c →
    ∃ z, TwoNode.run [(.master, encode (.cPrep2 a v)), (.master, encode .iArm), (.master, encode (.iStep r1)),
        (.master, encode (.iStep r2)), (.master, encode (.iStep r3)), (.master, encode (.iStep r4))] y = some z ∧
      z.s.dsPending = y.s.dsPending.set c v ∧ z.s.dsCurrent = y.s.dsCurrent ∧
      z.link = .idle ∧ z.m.iniState = .addr ∧ z.m.cs = .complete ∧ z.s.rsPhase = .none ∧
      z.m.fault = none ∧ z.s.fault = none ∧ z.NothingWaits ∧ (y.m.rsPhase = .none → y.s.CleanEnd → z.CleanEnd)

/-- R255, R186, R165: a 2-byte read of a matched responder delivers the exposed value of the entry the address selects to
the master's result handler. The DATA_IN step has a move with that byte; that it has none with another byte is the model's
reading of R255 and R290 (DEDUCED, log entry 7). -/
def Obligations.MasterReadReturnsTheExposedValue : Prop :=
  ∀ (y : TwoNode) (a p r1 r2 v : Byte),
    y.wf = true → y.m.Ready → y.s.Ready → y.link = .idle →
    y.m.cfg.fieldCount = 2 → y.m.cq = [] → y.m.iniState = .addr → y.m.rhSet = true →
    a.getLsbD 0 = true → addressMatches y.s.cfg a = true → regRead (decodeLocal y.s.cfg a) y.s = v →
    ∃ z, TwoNode.run [(.master, encode (.cPrep2 a p)), (.master, encode .iArm), (.master, encode (.iStep r1)),
        (.master, encode (.iStep r2))] y = some z ∧
      (∀ rx : Byte, rx ≠ v → z.moveM (encode (.iStep rx)) = none) ∧
      ∃ u, z.moveM (encode (.iStep v)) = some u ∧ emitted z.m u.m = [.result a v, .busNack] ∧ u.m.iniState = .stop

/-! ## Assembler -/

/-- R87, R88: the example of R87, and the words of the pseudo-instructions for every operand. -/
def Obligations.AssemblerWritesTheOperationWords : Prop :=
  assembleLine "C.PREP2 0x0C, 10" = some [0x130C0A00] ∧
  ∀ (a7 : BitVec 7) (k v c : Byte),
    (Pseudo.wr2 a7 v).expand.map encode = [0x13#8 ++ (a7 ++ 0#1) ++ v ++ 0#8] ∧
    (Pseudo.rd2 a7).expand.map encode = [0x13#8 ++ (a7 ++ 1#1) ++ 0#8 ++ 0#8] ∧
    (Pseudo.wr3 a7 k v).expand.map encode = [0x14#8 ++ (a7 ++ 0#1) ++ k ++ v] ∧
    (Pseudo.rd3 a7).expand.map encode = [0x14#8 ++ (a7 ++ 1#1) ++ 0#8 ++ 0#8] ∧
    Pseudo.go.expand.map encode = [0x30000000] ∧
    (Pseudo.pwm c v).expand.map encode = [0x50#8 ++ c ++ 0#8 ++ 0#8, 0x51#8 ++ v ++ 0#8 ++ 0#8] ∧
    Pseudo.period.expand.map encode = [0x52000000, 0x53000000, 0x53010000]
end

