-- ==== Sys2Proof/Laws/Decode.lean ====
section
/-! SUPPORT. The fields of a word made of four bytes, the formats, and the agreement of the range check with what the
operand bytes stand for. -/

namespace Sys2Proof

/-! ## Fields of a word (R70) -/

@[simp] theorem opcodeField_mkWord (op a b c : Byte) : opcodeField (mkWord op a b c) = op := by
  apply BitVec.eq_of_getLsbD_eq
  intro i hi
  simp only [opcodeField, mkWord, BitVec.getLsbD_extractLsb', BitVec.getLsbD_append]
  have h1 : ¬ 24 + i < 8 := by omega
  have h2 : ¬ 24 + i - 8 < 8 := by omega
  have h3 : ¬ 24 + i - 8 - 8 < 8 := by omega
  have h4 : 24 + i - 8 - 8 - 8 = i := by omega
  simp [h1, h2, h3, h4, hi]

@[simp] theorem fieldA_mkWord (op a b c : Byte) : fieldA (mkWord op a b c) = a := by
  apply BitVec.eq_of_getLsbD_eq
  intro i hi
  simp only [fieldA, mkWord, BitVec.getLsbD_extractLsb', BitVec.getLsbD_append]
  have h1 : ¬ 16 + i < 8 := by omega
  have h2 : ¬ 16 + i - 8 < 8 := by omega
  have h3 : 16 + i - 8 - 8 < 8 := by omega
  have h4 : 16 + i - 8 - 8 = i := by omega
  simp [h1, h2, h4, hi]

@[simp] theorem fieldB_mkWord (op a b c : Byte) : fieldB (mkWord op a b c) = b := by
  apply BitVec.eq_of_getLsbD_eq
  intro i hi
  simp only [fieldB, mkWord, BitVec.getLsbD_extractLsb', BitVec.getLsbD_append]
  have h1 : ¬ 8 + i < 8 := by omega
  have h2 : 8 + i - 8 = i := by omega
  simp [h1, h2, hi]

@[simp] theorem fieldC_mkWord (op a b c : Byte) : fieldC (mkWord op a b c) = c := by
  apply BitVec.eq_of_getLsbD_eq
  intro i hi
  simp only [fieldC, mkWord, BitVec.getLsbD_extractLsb', BitVec.getLsbD_append]
  simp [hi]

/-- A word is made of its four fields. -/
theorem mkWord_fields (w : Word) : mkWord (opcodeField w) (fieldA w) (fieldB w) (fieldC w) = w := by
  apply BitVec.eq_of_getLsbD_eq
  intro i hi
  simp only [opcodeField, fieldA, fieldB, fieldC, mkWord, BitVec.getLsbD_extractLsb', BitVec.getLsbD_append]
  by_cases h1 : i < 8
  · simp [h1]
  · by_cases h2 : i - 8 < 8
    · simp [h1, h2, show 8 + (i - 8) = i by omega]
    · by_cases h3 : i - 8 - 8 < 8
      · simp [h1, h2, h3, show 16 + (i - 8 - 8) = i by omega]
      · simp [h1, h2, h3, show 24 + (i - 8 - 8 - 8) = i by omega, show i - 8 - 8 - 8 < 8 by omega]

/-! ## Rows and formats (R71 to R74) -/

/-- A word decodes to `i` exactly when a row of the opcode map has its opcode and reads `i` from it. -/
theorem decode_ok {w : Word} {i : Instr} (h : decode w = .ok i) :
    ∃ row ∈ opcodeMap, row.opcode = opcodeField w ∧ row.format.read w = some i := by
  unfold decode at h
  split at h
  · cases h
  · rename_i row hrow
    split at h
    · rename_i j hj
      injection h with h; subst h
      exact ⟨row, List.mem_of_find?_eq_some hrow, by simpa using List.find?_some hrow, hj⟩
    · cases h

/-- The rows of the opcode map have distinct opcodes: decoding is unambiguous. -/
theorem opcodeMap_distinct : opcodeMap.Pairwise (fun r q => r.opcode ≠ q.opcode) := by decide

/-! ## Operand ranges (R76) -/

namespace Machine

theorem bitOperand_isSome (h : Byte) : (bitOperand h).isSome = decide (h.toNat ≤ 1) := by
  revert h; decide

theorem channelOperand_isSome (i : Byte) : (channelOperand i).isSome = decide (i.toNat ≤ 1) := by
  revert i; decide

theorem handlerOperand_isSome (h : Byte) : (handlerOperand h).isSome = decide (h.toNat ≤ 2) := by
  revert h; decide

/-- R79: the local sub-address is `(r >> 1)` modulo `REG_COUNT`. -/
theorem decodeLocal_toNat {c : Config} (h : c.wf = true) (r : Byte) :
    (decodeLocal c r).toNat = r.toNat / 2 % c.regCount := by
  have hb : c.localBits = 1 ∨ c.localBits = 2 := by
    simp only [Config.wf, Bool.and_eq_true, Bool.or_eq_true, beq_iff_eq] at h
    exact h.1.1.1.2
  rcases hb with hb | hb
  all_goals
    simp only [decodeLocal, Config.lmask, Config.regCount, hb]
    revert r
    decide

/-- R28: the local sub-address is within 0..LMASK. -/
theorem decodeLocal_le_lmask {c : Config} (h : c.wf = true) (r : Byte) : (decodeLocal c r).toNat ≤ c.lmask := by
  rw [decodeLocal_toNat h]
  have : 0 < c.regCount := Nat.two_pow_pos _
  have := Nat.mod_lt (r.toNat / 2) this
  unfold Config.lmask
  omega

/-- The bytes of a command frame: `FIELD_COUNT` of them (R80, R81). -/
@[simp] theorem frame2_length (a v : Byte) : (frame2 a v).length = 2 := rfl
@[simp] theorem frame3_length (a k v : Byte) : (frame3 a k v).length = 3 := rfl

end Machine

end Sys2Proof
end

