-- ==== Sys2Proof/Laws/State.lean ====
section
/-! SUPPORT. One lemma per field per update of State, true by rfl: committing an effect, taking a fault, adding an
observation, and issuing a word. -/

namespace Sys2Proof.Machine

/-! ## Committing an effect -/

@[simp] theorem commit_cfg (e : Effect) : (e.commit).cfg = e.st.cfg := rfl
@[simp] theorem commit_cq (e : Effect) : (e.commit).cq = e.st.cq := rfl
@[simp] theorem commit_cs (e : Effect) : (e.commit).cs = e.st.cs := rfl
@[simp] theorem commit_iniState (e : Effect) : (e.commit).iniState = e.st.iniState := rfl
@[simp] theorem commit_iniAddr (e : Effect) : (e.commit).iniAddr = e.st.iniAddr := rfl
@[simp] theorem commit_rhSet (e : Effect) : (e.commit).rhSet = e.st.rhSet := rfl
@[simp] theorem commit_rsPhase (e : Effect) : (e.commit).rsPhase = e.st.rsPhase := rfl
@[simp] theorem commit_rsDir (e : Effect) : (e.commit).rsDir = e.st.rsDir := rfl
@[simp] theorem commit_rsLocal (e : Effect) : (e.commit).rsLocal = e.st.rsLocal := rfl
@[simp] theorem commit_rsRdptr (e : Effect) : (e.commit).rsRdptr = e.st.rsRdptr := rfl
@[simp] theorem commit_regs (e : Effect) : (e.commit).regs = e.st.regs := rfl
@[simp] theorem commit_chHandler (e : Effect) : (e.commit).chHandler = e.st.chHandler := rfl
@[simp] theorem commit_stValid (e : Effect) : (e.commit).stValid = e.st.stValid := rfl
@[simp] theorem commit_stAddr (e : Effect) : (e.commit).stAddr = e.st.stAddr := rfl
@[simp] theorem commit_stKind (e : Effect) : (e.commit).stKind = e.st.stKind := rfl
@[simp] theorem commit_stValue (e : Effect) : (e.commit).stValue = e.st.stValue := rfl
@[simp] theorem commit_stNd (e : Effect) : (e.commit).stNd = e.st.stNd := rfl
@[simp] theorem commit_rxq (e : Effect) : (e.commit).rxq = e.st.rxq := rfl
@[simp] theorem commit_dsPending (e : Effect) : (e.commit).dsPending = e.st.dsPending := rfl
@[simp] theorem commit_dsCurrent (e : Effect) : (e.commit).dsCurrent = e.st.dsCurrent := rfl
@[simp] theorem commit_dsSel (e : Effect) : (e.commit).dsSel = e.st.dsSel := rfl
@[simp] theorem commit_dsPhase (e : Effect) : (e.commit).dsPhase = e.st.dsPhase := rfl
@[simp] theorem commit_fault (e : Effect) : (e.commit).fault = e.st.fault := rfl
@[simp] theorem commit_ops (e : Effect) : (e.commit).ops = e.st.ops := rfl
@[simp] theorem commit_trace (e : Effect) : (e.commit).trace = e.st.trace ++ [⟨e.events, e.ret⟩] := rfl

/-! ## Taking a fault -/

@[simp] theorem raise_cfg (c : FaultCode) (w : Word) (s : State) : (s.raise c w).cfg = s.cfg := rfl
@[simp] theorem raise_cq (c : FaultCode) (w : Word) (s : State) : (s.raise c w).cq = s.cq := rfl
@[simp] theorem raise_cs (c : FaultCode) (w : Word) (s : State) : (s.raise c w).cs = s.cs := rfl
@[simp] theorem raise_iniState (c : FaultCode) (w : Word) (s : State) : (s.raise c w).iniState = s.iniState := rfl
@[simp] theorem raise_iniAddr (c : FaultCode) (w : Word) (s : State) : (s.raise c w).iniAddr = s.iniAddr := rfl
@[simp] theorem raise_rhSet (c : FaultCode) (w : Word) (s : State) : (s.raise c w).rhSet = s.rhSet := rfl
@[simp] theorem raise_rsPhase (c : FaultCode) (w : Word) (s : State) : (s.raise c w).rsPhase = s.rsPhase := rfl
@[simp] theorem raise_rsDir (c : FaultCode) (w : Word) (s : State) : (s.raise c w).rsDir = s.rsDir := rfl
@[simp] theorem raise_rsLocal (c : FaultCode) (w : Word) (s : State) : (s.raise c w).rsLocal = s.rsLocal := rfl
@[simp] theorem raise_rsRdptr (c : FaultCode) (w : Word) (s : State) : (s.raise c w).rsRdptr = s.rsRdptr := rfl
@[simp] theorem raise_regs (c : FaultCode) (w : Word) (s : State) : (s.raise c w).regs = s.regs := rfl
@[simp] theorem raise_chHandler (c : FaultCode) (w : Word) (s : State) : (s.raise c w).chHandler = s.chHandler := rfl
@[simp] theorem raise_stValid (c : FaultCode) (w : Word) (s : State) : (s.raise c w).stValid = s.stValid := rfl
@[simp] theorem raise_stAddr (c : FaultCode) (w : Word) (s : State) : (s.raise c w).stAddr = s.stAddr := rfl
@[simp] theorem raise_stKind (c : FaultCode) (w : Word) (s : State) : (s.raise c w).stKind = s.stKind := rfl
@[simp] theorem raise_stValue (c : FaultCode) (w : Word) (s : State) : (s.raise c w).stValue = s.stValue := rfl
@[simp] theorem raise_stNd (c : FaultCode) (w : Word) (s : State) : (s.raise c w).stNd = s.stNd := rfl
@[simp] theorem raise_rxq (c : FaultCode) (w : Word) (s : State) : (s.raise c w).rxq = s.rxq := rfl
@[simp] theorem raise_dsPending (c : FaultCode) (w : Word) (s : State) : (s.raise c w).dsPending = s.dsPending := rfl
@[simp] theorem raise_dsCurrent (c : FaultCode) (w : Word) (s : State) : (s.raise c w).dsCurrent = s.dsCurrent := rfl
@[simp] theorem raise_dsSel (c : FaultCode) (w : Word) (s : State) : (s.raise c w).dsSel = s.dsSel := rfl
@[simp] theorem raise_dsPhase (c : FaultCode) (w : Word) (s : State) : (s.raise c w).dsPhase = s.dsPhase := rfl
@[simp] theorem raise_fault (c : FaultCode) (w : Word) (s : State) : (s.raise c w).fault = some ⟨c, w⟩ := rfl
@[simp] theorem raise_ops (c : FaultCode) (w : Word) (s : State) : (s.raise c w).ops = s.ops := rfl
@[simp] theorem raise_trace (c : FaultCode) (w : Word) (s : State) : (s.raise c w).trace = s.trace := rfl

/-! ## Adding an observation -/

@[simp] theorem observing_cfg (s : State) (es : List OutEvent) (r : Ret) : (s.observing es r).cfg = s.cfg := rfl
@[simp] theorem observing_cq (s : State) (es : List OutEvent) (r : Ret) : (s.observing es r).cq = s.cq := rfl
@[simp] theorem observing_cs (s : State) (es : List OutEvent) (r : Ret) : (s.observing es r).cs = s.cs := rfl
@[simp] theorem observing_iniState (s : State) (es : List OutEvent) (r : Ret) : (s.observing es r).iniState = s.iniState := rfl
@[simp] theorem observing_iniAddr (s : State) (es : List OutEvent) (r : Ret) : (s.observing es r).iniAddr = s.iniAddr := rfl
@[simp] theorem observing_rhSet (s : State) (es : List OutEvent) (r : Ret) : (s.observing es r).rhSet = s.rhSet := rfl
@[simp] theorem observing_rsPhase (s : State) (es : List OutEvent) (r : Ret) : (s.observing es r).rsPhase = s.rsPhase := rfl
@[simp] theorem observing_rsDir (s : State) (es : List OutEvent) (r : Ret) : (s.observing es r).rsDir = s.rsDir := rfl
@[simp] theorem observing_rsLocal (s : State) (es : List OutEvent) (r : Ret) : (s.observing es r).rsLocal = s.rsLocal := rfl
@[simp] theorem observing_rsRdptr (s : State) (es : List OutEvent) (r : Ret) : (s.observing es r).rsRdptr = s.rsRdptr := rfl
@[simp] theorem observing_regs (s : State) (es : List OutEvent) (r : Ret) : (s.observing es r).regs = s.regs := rfl
@[simp] theorem observing_chHandler (s : State) (es : List OutEvent) (r : Ret) : (s.observing es r).chHandler = s.chHandler := rfl
@[simp] theorem observing_stValid (s : State) (es : List OutEvent) (r : Ret) : (s.observing es r).stValid = s.stValid := rfl
@[simp] theorem observing_stAddr (s : State) (es : List OutEvent) (r : Ret) : (s.observing es r).stAddr = s.stAddr := rfl
@[simp] theorem observing_stKind (s : State) (es : List OutEvent) (r : Ret) : (s.observing es r).stKind = s.stKind := rfl
@[simp] theorem observing_stValue (s : State) (es : List OutEvent) (r : Ret) : (s.observing es r).stValue = s.stValue := rfl
@[simp] theorem observing_stNd (s : State) (es : List OutEvent) (r : Ret) : (s.observing es r).stNd = s.stNd := rfl
@[simp] theorem observing_rxq (s : State) (es : List OutEvent) (r : Ret) : (s.observing es r).rxq = s.rxq := rfl
@[simp] theorem observing_dsPending (s : State) (es : List OutEvent) (r : Ret) : (s.observing es r).dsPending = s.dsPending := rfl
@[simp] theorem observing_dsCurrent (s : State) (es : List OutEvent) (r : Ret) : (s.observing es r).dsCurrent = s.dsCurrent := rfl
@[simp] theorem observing_dsSel (s : State) (es : List OutEvent) (r : Ret) : (s.observing es r).dsSel = s.dsSel := rfl
@[simp] theorem observing_dsPhase (s : State) (es : List OutEvent) (r : Ret) : (s.observing es r).dsPhase = s.dsPhase := rfl
@[simp] theorem observing_fault (s : State) (es : List OutEvent) (r : Ret) : (s.observing es r).fault = s.fault := rfl
@[simp] theorem observing_ops (s : State) (es : List OutEvent) (r : Ret) : (s.observing es r).ops = s.ops := rfl
@[simp] theorem observing_trace (s : State) (es : List OutEvent) (r : Ret) : (s.observing es r).trace = s.trace ++ [⟨es, r⟩] := rfl

/-! ## Issuing a word -/

@[simp] theorem withFetchWord_cfg (s : State) (n w : Nat) : (s.withFetchWord n w).cfg = s.cfg := rfl
@[simp] theorem withFetchWord_cq (s : State) (n w : Nat) : (s.withFetchWord n w).cq = s.cq := rfl
@[simp] theorem withFetchWord_cs (s : State) (n w : Nat) : (s.withFetchWord n w).cs = s.cs := rfl
@[simp] theorem withFetchWord_iniState (s : State) (n w : Nat) : (s.withFetchWord n w).iniState = s.iniState := rfl
@[simp] theorem withFetchWord_iniAddr (s : State) (n w : Nat) : (s.withFetchWord n w).iniAddr = s.iniAddr := rfl
@[simp] theorem withFetchWord_rhSet (s : State) (n w : Nat) : (s.withFetchWord n w).rhSet = s.rhSet := rfl
@[simp] theorem withFetchWord_rsPhase (s : State) (n w : Nat) : (s.withFetchWord n w).rsPhase = s.rsPhase := rfl
@[simp] theorem withFetchWord_rsDir (s : State) (n w : Nat) : (s.withFetchWord n w).rsDir = s.rsDir := rfl
@[simp] theorem withFetchWord_rsLocal (s : State) (n w : Nat) : (s.withFetchWord n w).rsLocal = s.rsLocal := rfl
@[simp] theorem withFetchWord_rsRdptr (s : State) (n w : Nat) : (s.withFetchWord n w).rsRdptr = s.rsRdptr := rfl
@[simp] theorem withFetchWord_regs (s : State) (n w : Nat) : (s.withFetchWord n w).regs = s.regs := rfl
@[simp] theorem withFetchWord_chHandler (s : State) (n w : Nat) : (s.withFetchWord n w).chHandler = s.chHandler := rfl
@[simp] theorem withFetchWord_stValid (s : State) (n w : Nat) : (s.withFetchWord n w).stValid = s.stValid := rfl
@[simp] theorem withFetchWord_stAddr (s : State) (n w : Nat) : (s.withFetchWord n w).stAddr = s.stAddr := rfl
@[simp] theorem withFetchWord_stKind (s : State) (n w : Nat) : (s.withFetchWord n w).stKind = s.stKind := rfl
@[simp] theorem withFetchWord_stValue (s : State) (n w : Nat) : (s.withFetchWord n w).stValue = s.stValue := rfl
@[simp] theorem withFetchWord_stNd (s : State) (n w : Nat) : (s.withFetchWord n w).stNd = s.stNd := rfl
@[simp] theorem withFetchWord_rxq (s : State) (n w : Nat) : (s.withFetchWord n w).rxq = s.rxq := rfl
@[simp] theorem withFetchWord_dsPending (s : State) (n w : Nat) : (s.withFetchWord n w).dsPending = s.dsPending := rfl
@[simp] theorem withFetchWord_dsCurrent (s : State) (n w : Nat) : (s.withFetchWord n w).dsCurrent = s.dsCurrent := rfl
@[simp] theorem withFetchWord_dsSel (s : State) (n w : Nat) : (s.withFetchWord n w).dsSel = s.dsSel := rfl
@[simp] theorem withFetchWord_dsPhase (s : State) (n w : Nat) : (s.withFetchWord n w).dsPhase = s.dsPhase := rfl
@[simp] theorem withFetchWord_fault (s : State) (n w : Nat) : (s.withFetchWord n w).fault = s.fault := rfl
@[simp] theorem withFetchWord_ops (s : State) (n w : Nat) : (s.withFetchWord n w).ops = BitVec.ofNat 32 (w % 2 ^ n) :: s.ops := rfl
@[simp] theorem withFetchWord_trace (s : State) (n w : Nat) : (s.withFetchWord n w).trace = s.trace := rfl

/-! ## Effects -/

@[simp] theorem silent_st (s : State) : (Effect.silent s).st = s := rfl
@[simp] theorem silent_events (s : State) : (Effect.silent s).events = [] := rfl
@[simp] theorem silent_ret (s : State) : (Effect.silent s).ret = .none := rfl
@[simp] theorem returning_st (s : State) (r : Ret) : (Effect.returning s r).st = s := rfl
@[simp] theorem returning_events (s : State) (r : Ret) : (Effect.returning s r).events = [] := rfl
@[simp] theorem returning_ret (s : State) (r : Ret) : (Effect.returning s r).ret = r := rfl
@[simp] theorem emitting_st (s : State) (es : List OutEvent) : (Effect.emitting s es).st = s := rfl
@[simp] theorem emitting_events (s : State) (es : List OutEvent) : (Effect.emitting s es).events = es := rfl
@[simp] theorem emitting_ret (s : State) (es : List OutEvent) : (Effect.emitting s es).ret = .none := rfl

theorem commit_eq_observing (e : Effect) : e.commit = e.st.observing e.events e.ret := rfl
@[simp] theorem silent_commit (s : State) : (Effect.silent s).commit = s.observing [] .none := rfl
@[simp] theorem returning_commit (s : State) (r : Ret) : (Effect.returning s r).commit = s.observing [] r := rfl
@[simp] theorem emitting_commit (s : State) (es : List OutEvent) : (Effect.emitting s es).commit = s.observing es .none := rfl

/-! ## The power-on state -/

@[simp] theorem por_cfg (c : Config) : (State.por c).cfg = c := rfl
@[simp] theorem por_fault (c : Config) : (State.por c).fault = none := rfl
@[simp] theorem reset_cfg : State.reset.cfg = Config.reference := rfl

/-! ## The end of a run (R299) -/

@[simp] theorem State.initiatorEndsAt_none (s : State) :
    s.initiatorEndsAt none = true ↔ s.iniState = .addr ∧ s.cs.idle = true := by simp [State.initiatorEndsAt]

@[simp] theorem State.initiatorEndsAt_some (f : InFlight) (s : State) :
    s.initiatorEndsAt (some f) = true ↔ s.iniState = f.iniState ∧ s.cs = f.cs ∧ s.iniAddr = f.iniAddr := by
  simp [State.initiatorEndsAt, and_assoc]

end Sys2Proof.Machine
end

