-- ==== Sys2Proof/Laws/Ops.lean ====
section
/-! SUPPORT. One lemma per shared operation that says everything it can do: the interface, taking a fault, the accesses
to the storages. The bodies that rules call are in Laws/Bodies.lean. -/

namespace Sys2Proof.Machine

/-! ## Legal states (R20) -/

theorem legal_iff (s : State) :
    s.legal = true ↔ s.cfg.wf = true ∧ s.cq.length ≤ s.cfg.cqCapacity ∧ s.rxq.length ≤ s.cfg.rxqCapacity ∧
      s.rsLocal.toNat ≤ s.cfg.lmask ∧ s.rsRdptr.toNat ≤ s.cfg.lmask ∧ s.regs.length = s.cfg.regCount := by
  simp only [State.legal, Bool.and_eq_true, decide_eq_true_eq, beq_iff_eq, and_assoc]

theorem wf_of_legal {s : State} (h : s.legal = true) : s.cfg.wf = true := ((legal_iff s).1 h).1

/-- R9: what a well-formed configuration is. -/
theorem Config.wf_iff (c : Config) :
    c.wf = true ↔ (c.fieldCount = 2 ∨ c.fieldCount = 3) ∧ (c.localBits = 1 ∨ c.localBits = 2) ∧
      2 * c.fieldCount ≤ c.cqCapacity ∧ 1 ≤ c.rxqCapacity ∧ ¬ (c.fieldCount = 3 ∧ c.rxMode = .sync) := by
  simp only [Config.wf, Bool.and_eq_true, Bool.or_eq_true, beq_iff_eq, decide_eq_true_eq, Bool.not_eq_true',
    Bool.and_eq_false_iff, beq_eq_false_iff_ne, not_and_or, and_assoc, ne_eq]

@[simp] theorem legal_raise (c : FaultCode) (w : Word) (s : State) : (s.raise c w).legal = s.legal := rfl
@[simp] theorem legal_commit (e : Effect) : e.commit.legal = e.st.legal := rfl
@[simp] theorem legal_observing (s : State) (es : List OutEvent) (r : Ret) : (s.observing es r).legal = s.legal := rfl
@[simp] theorem legal_ops (s : State) (ws : List Word) : State.legal { s with ops := ws } = s.legal := rfl

theorem ready_legal {s : State} (h : s.Ready) : s.legal = true := h.1
theorem ready_fault {s : State} (h : s.Ready) : s.fault = none := h.2
theorem ready_wf {s : State} (h : s.Ready) : s.cfg.wf = true := wf_of_legal h.1

/-! ## The interface (R77) -/

@[simp] theorem conclude_ok (w : Word) (s : State) (e : Effect) : conclude w s (.ok e) = .next e.commit := rfl
@[simp] theorem conclude_error (w : Word) (s : State) (c : FaultCode) : conclude w s (.error c) = .next (s.raise c w) := rfl

theorem atInterface_ready {s : State} (h : s.Ready) (w : Word) (f : State → Attempt) :
    atInterface w f s = conclude w s (f s) := by
  simp [atInterface, ready_wf h, ready_legal h, ready_fault h]

/-- R243: a recorded fault makes every operation without effect. -/
theorem atInterface_faulted {s : State} (hl : s.legal = true) (hf : s.fault.isSome = true) (w : Word)
    (f : State → Attempt) : atInterface w f s = .next s := by
  simp [atInterface, wf_of_legal hl, hl, hf]

/-- Everything an operation issued at the interface can lead to. -/
theorem atInterface_next {w : Word} {f : State → Attempt} {s t : State} (h : atInterface w f s = .next t) :
    s.legal = true ∧
      ((s.fault.isSome = true ∧ t = s) ∨
       (s.fault = none ∧ ∃ e, f s = .ok e ∧ t = e.commit) ∨
       (s.fault = none ∧ ∃ c, f s = .error c ∧ t = s.raise c w)) := by
  unfold atInterface at h
  split at h
  · split at h
    · rename_i hl
      refine ⟨hl, ?_⟩
      split at h
      · rename_i hf; injection h with h; exact .inl ⟨hf, h.symm⟩
      · rename_i hf
        have hf : s.fault = none := by simpa using hf
        cases hb : f s with
        | ok e => rw [hb] at h; injection h with h; exact .inr (.inl ⟨hf, e, rfl, h.symm⟩)
        | error c => rw [hb] at h; injection h with h; exact .inr (.inr ⟨hf, c, rfl, h.symm⟩)
    · cases h
  · cases h

/-- On a legal state the interface always answers a next state (R14). -/
theorem atInterface_total {s : State} (hl : s.legal = true) (w : Word) (f : State → Attempt) :
    ∃ t, atInterface w f s = .next t := by
  unfold atInterface
  simp only [wf_of_legal hl, hl, if_true]
  split
  · exact ⟨_, rfl⟩
  · cases f s <;> exact ⟨_, rfl⟩

theorem perform_ready {s : State} (h : s.Ready) {i : Instr} (hi : i.wf s.cfg = true) (body : State → Attempt) :
    perform i body s = conclude (encode i) s (body s) := by
  simp [perform, atInterface_ready h, hi]

/-- R75, R76: an operation the configuration does not admit raises ILLEGAL_OP. -/
theorem perform_illegal {s : State} (h : s.Ready) {i : Instr} (hi : i.wf s.cfg = false) (body : State → Attempt) :
    perform i body s = .next (s.raise .illegalOp (encode i)) := by
  simp [perform, atInterface_ready h, hi]

theorem illegalWord_ready {s : State} (h : s.Ready) (w : Word) : illegalWord w s = .next (s.raise .illegalOp w) := by
  simp [illegalWord, atInterface_ready h]

/-- Everything a decoded operation can lead to. -/
theorem perform_next {i : Instr} {body : State → Attempt} {s t : State} (h : perform i body s = .next t) :
    s.legal = true ∧
      ((s.fault.isSome = true ∧ t = s) ∨
       (s.fault = none ∧ i.wf s.cfg = true ∧ ∃ e, body s = .ok e ∧ t = e.commit) ∨
       (s.fault = none ∧ i.wf s.cfg = true ∧ ∃ c, body s = .error c ∧ t = s.raise c (encode i)) ∨
       (s.fault = none ∧ i.wf s.cfg = false ∧ t = s.raise .illegalOp (encode i))) := by
  obtain ⟨hl, h | ⟨hf, e, he, ht⟩ | ⟨hf, c, hc, ht⟩⟩ := atInterface_next h
  · exact ⟨hl, .inl h⟩
  · refine ⟨hl, ?_⟩
    split at he
    · rename_i hw; exact .inr (.inl ⟨hf, hw, e, he, ht⟩)
    · cases he
  · refine ⟨hl, ?_⟩
    split at hc
    · rename_i hw; exact .inr (.inr (.inl ⟨hf, hw, c, hc, ht⟩))
    · rename_i hw; injection hc with hc; subst hc
      exact .inr (.inr (.inr ⟨hf, by simpa using hw, ht⟩))

/-! ## The storages (R50) -/

theorem cqAppend_ok {bs : List Byte} {s t : State} (h : cqAppend bs s = .ok t) :
    s.cq.length + bs.length ≤ s.cfg.cqCapacity ∧ t = { s with cq := s.cq ++ bs } := by
  unfold cqAppend at h
  split at h
  · cases h
  · injection h with h; exact ⟨by omega, h.symm⟩

theorem cqAppend_error {bs : List Byte} {s : State} {c : FaultCode} (h : cqAppend bs s = .error c) :
    s.cfg.cqCapacity < s.cq.length + bs.length ∧ c = .cqOverflow := by
  unfold cqAppend at h
  split at h
  · injection h with h; exact ⟨by omega, h.symm⟩
  · cases h

/-- R101's own test: for one byte and a queue within its bound, no room is `len(cq) = CQ_CAPACITY`. -/
theorem cqAppend_one_error_iff {b : Byte} {s : State} (h : s.cq.length ≤ s.cfg.cqCapacity) :
    cqAppend [b] s = .error .cqOverflow ↔ s.cq.length = s.cfg.cqCapacity := by
  unfold cqAppend
  simp only [List.length_singleton]
  split <;> simp <;> omega

theorem cqRemove_ok {b : Byte} {s t : State} (h : cqRemove s = .ok (b, t)) :
    ∃ rest, s.cq = b :: rest ∧ t = { s with cq := rest } := by
  unfold cqRemove at h
  split at h
  · cases h
  · rename_i b' rest hq; injection h with h; injection h with h1 h2; subst h1; exact ⟨rest, hq, h2.symm⟩

theorem cqRemove_error {s : State} {c : FaultCode} (h : cqRemove s = .error c) : s.cq = [] ∧ c = .cqUnderflow := by
  unfold cqRemove at h
  split at h
  · rename_i hq; injection h with h; exact ⟨hq, h.symm⟩
  · cases h

theorem rxqAppend_ok {c : Command} {s t : State} (h : rxqAppend c s = .ok t) :
    s.rxq.length < s.cfg.rxqCapacity ∧ t = { s with rxq := s.rxq ++ [c] } := by
  unfold rxqAppend at h
  split at h
  · cases h
  · injection h with h; exact ⟨by omega, h.symm⟩

theorem rxqAppend_error {c : Command} {s : State} {k : FaultCode} (h : rxqAppend c s = .error k) :
    s.cfg.rxqCapacity ≤ s.rxq.length ∧ k = .rxqOverflow := by
  unfold rxqAppend at h
  split at h
  · injection h with h; exact ⟨by omega, h.symm⟩
  · cases h

theorem rxqRemove_ok {c : Command} {s t : State} (h : rxqRemove s = .ok (c, t)) :
    ∃ rest, s.rxq = c :: rest ∧ t = { s with rxq := rest } := by
  unfold rxqRemove at h
  split at h
  · cases h
  · rename_i c' rest hq; injection h with h; injection h with h1 h2; subst h1; exact ⟨rest, hq, h2.symm⟩

theorem rxqRemove_error {s : State} {k : FaultCode} (h : rxqRemove s = .error k) : s.rxq = [] ∧ k = .rxqUnderflow := by
  unfold rxqRemove at h
  split at h
  · rename_i hq; injection h with h; exact ⟨hq, h.symm⟩
  · cases h

/-- A value written to an entry of the table is the value read there, and every other entry is as before (R61 (2)). -/
theorem regRead_regWrite (l k v : Byte) (s : State) (h : l.toNat < s.regs.length) :
    regRead k (regWrite l v s) = if k = l then v else regRead k s := by
  simp only [regRead, regWrite, List.getD_eq_getElem?_getD, List.getElem?_set]
  by_cases hk : k = l
  · subst hk; simp [h]
  · have : l.toNat ≠ k.toNat := fun e => hk (BitVec.eq_of_toNat_eq e.symm)
    simp [hk, this]

@[simp] theorem regWrite_length (l v : Byte) (s : State) : (regWrite l v s).regs.length = s.regs.length := by
  simp [regWrite]

@[simp] theorem get_set (p : PerChannel) (c d : Channel) (v : Byte) :
    (p.set c v).get d = if d = c then v else p.get d := by
  cases c <;> cases d <;> rfl

@[simp] theorem other_other (c : Channel) : c.other.other = c := by cases c <;> rfl
theorem other_ne (c : Channel) : c.other ≠ c := by cases c <;> decide

end Sys2Proof.Machine
end

