-- ==== Sys2Proof/Laws/Bodies.lean ====
section
/-! SUPPORT. What the bodies the rules call can do, one lemma each, and the one equation that says every operation is
its body performed at the interface. -/

namespace Sys2Proof.Machine

/-! ## Every operation is its body at the interface -/

/-- The rule of an operation (R77 step 5). -/
def bodyOf : Instr → State → Attempt
  | .qIsEmpty => qIsEmptyBody
  | .qEnq b => qEnqBody b
  | .qDeq => qDeqBody
  | .qReset => qResetBody
  | .cAvail => cAvailBody
  | .cNext => cNextBody
  | .cSent => cSentBody
  | .cPrep2 a v => prepare (frame2 a v)
  | .cPrep3 a k v => prepare (frame3 a k v)
  | .rOnAddr a => fun s => .ok (.silent (callOnAddr a s))
  | .rOnData b => fun s => .ok (.silent (callOnData b s))
  | .rOnEnd => rOnEndBody
  | .rHas => fun s => .ok (.returning s (.bool s.rxPending))
  | .rTake => rTakeBody
  | .iArm => iArmBody
  | .iStep rx => iStepBody rx
  | .iSetRh h => iSetRhBody h
  | .sStart => sStartBody
  | .sStop => sStopBody
  | .sByteW b => sByteWBody b
  | .sByteR b => sByteRBody b
  | .sExpose l v => fun s => .ok (.silent (regWrite l v s))
  | .sSetCh h => sSetChBody h
  | .dSel i => dSelBody i
  | .dSetP v => fun s => .ok (.silent (callSetP v s))
  | .dTick => dTickBody
  | .dDuty c => dDutyBody c
  | .xReinit => fun s => .ok (.silent (reinitialized s))

theorem exec_eq_perform (i : Instr) (s : State) : exec i s = perform i (bodyOf i) s := by cases i <;> rfl

/-- An operation on a ready state is its rule, concluded (R14). -/
theorem exec_ready {i : Instr} {s : State} (h : s.Ready) (hi : i.wf s.cfg = true) :
    exec i s = conclude (encode i) s (bodyOf i s) := by
  rw [exec_eq_perform, perform_ready h hi]

/-- A completed operation on a ready state. -/
theorem exec_ok {i : Instr} {s : State} {e : Effect} (h : s.Ready) (hi : i.wf s.cfg = true) (hb : bodyOf i s = .ok e) :
    exec i s = .next e.commit := by
  rw [exec_eq_perform, perform_ready h hi, hb]; rfl

/-- A faulting operation on a ready state (R242). -/
theorem exec_error {i : Instr} {s : State} {c : FaultCode} (h : s.Ready) (hi : i.wf s.cfg = true)
    (hb : bodyOf i s = .error c) : exec i s = .next (s.raise c (encode i)) := by
  rw [exec_eq_perform, perform_ready h hi, hb]; rfl

/-! ## The transmit codec -/

/-- R120. -/
theorem callAvail_cases (s : State) :
    (s.cq = [] ∧ callAvail s = (false, s)) ∨
    (s.cq ≠ [] ∧ s.cs.idle = true ∧ callAvail s = (true, { s with cs := .addrP })) ∨
    (s.cq ≠ [] ∧ s.cs.idle = false ∧ callAvail s = (true, s)) := by
  unfold callAvail State.cqEmpty
  cases hq : s.cq with
  | nil => exact .inl ⟨rfl, by simp⟩
  | cons b rest => cases hi : s.cs.idle <;> simp

/-- R121. -/
theorem callNext_ok {s t : State} {b : Byte} (h : callNext s = .ok (b, t)) :
    (s.cs.idle = true ∧ b = 0 ∧ t = s) ∨
    (s.cs.idle = false ∧ ∃ rest, s.cq = b :: rest ∧
      t = { s with cq := rest, cs := s.cs.advance s.cfg.fieldCount }) := by
  unfold callNext at h
  split at h
  · rename_i hi; injection h with h; injection h with h1 h2; exact .inl ⟨hi, h1.symm, h2.symm⟩
  · rename_i hi
    split at h
    · cases h
    · rename_i b' s1 hr
      injection h with h; injection h with h1 h2
      subst h1
      obtain ⟨rest, hq, ht⟩ := cqRemove_ok hr
      subst ht
      exact .inr ⟨by simpa using hi, rest, hq, h2.symm⟩

theorem callNext_error {s : State} {c : FaultCode} (h : callNext s = .error c) :
    s.cs.idle = false ∧ s.cq = [] ∧ c = .cqUnderflow := by
  unfold callNext at h
  split at h
  · cases h
  · rename_i hi
    split at h
    · rename_i k hr
      injection h with h; subst h
      obtain ⟨hq, hk⟩ := cqRemove_error hr
      exact ⟨by simpa using hi, hq, hk⟩
    · cases h

/-- R123, R124. -/
theorem prepare_ok {frame : List Byte} {s : State} {e : Effect} (h : prepare frame s = .ok e) :
    s.cq.length + frame.length ≤ s.cfg.cqCapacity ∧
      e = .silent { s with cq := s.cq ++ frame, cs := if s.prepRearms then .addrP else s.cs } := by
  unfold prepare at h
  split at h
  · cases h
  · rename_i s1 ha
    injection h with h
    obtain ⟨hle, rfl⟩ := cqAppend_ok ha
    refine ⟨hle, ?_⟩
    rw [← h]
    split <;> rfl

theorem prepare_error {frame : List Byte} {s : State} {c : FaultCode} (h : prepare frame s = .error c) :
    s.cfg.cqCapacity < s.cq.length + frame.length ∧ c = .cqOverflow := by
  unfold prepare at h
  split at h
  · rename_i ha; injection h with h; subst h; exact cqAppend_error ha
  · cases h

/-! ## The receive codec -/

/-- R142. -/
theorem callOnEnd_ok {s t : State} (h : callOnEnd s = .ok t) :
    (s.stagingComplete = true ∧ s.rxq.length < s.cfg.rxqCapacity ∧
      t = { s with rxq := s.rxq ++ [⟨s.stAddr, s.stKind, s.stValue⟩], stValid := false }) ∨
    (s.stagingComplete = false ∧ t = { s with stValid := false }) := by
  unfold callOnEnd at h
  split at h
  · rename_i hc
    split at h
    · cases h
    · rename_i s1 ha
      injection h with h
      obtain ⟨hlt, rfl⟩ := rxqAppend_ok ha
      exact .inl ⟨hc, hlt, h.symm⟩
  · rename_i hc; injection h with h; exact .inr ⟨by simpa using hc, h.symm⟩

theorem callOnEnd_error {s : State} {c : FaultCode} (h : callOnEnd s = .error c) :
    s.stagingComplete = true ∧ s.cfg.rxqCapacity ≤ s.rxq.length ∧ c = .rxqOverflow := by
  unfold callOnEnd at h
  split at h
  · rename_i hc
    split at h
    · rename_i k ha; injection h with h; subst h; exact ⟨hc, rxqAppend_error ha⟩
    · cases h
  · cases h

/-- R32: the count saturates at 255. -/
theorem countSaturating_toNat (n : Byte) : (countSaturating n).toNat = min 255 (n.toNat + 1) := by
  revert n; decide

/-! ## The initiator's placeholder loop (R164) -/

/-- The loop changes the queue and the field position only. -/
theorem discardPlaceholders_frame {n : Nat} {s t : State} (h : discardPlaceholders n s = .ok t) :
    ∃ (q : List Byte) (p : FieldPos), t = { s with cq := q, cs := p } ∧ q.length ≤ s.cq.length := by
  induction n generalizing s with
  | zero => injection h with h; exact ⟨s.cq, s.cs, h.symm, Nat.le_refl _⟩
  | succ n ih =>
    unfold discardPlaceholders at h
    split at h
    · exact ih h
    · split at h
      · cases h
      · rename_i b s1 hn
        obtain ⟨q, p, ht, hle⟩ := ih h
        rcases callNext_ok hn with ⟨-, -, rfl⟩ | ⟨-, rest, hq, rfl⟩
        · exact ⟨q, p, ht, hle⟩
        · refine ⟨q, p, by rw [ht], ?_⟩
          rw [hq]; simp only [List.length_cons]; exact Nat.le_succ_of_le hle

/-- The only fault of the loop is the codec's (R164). -/
theorem discardPlaceholders_error {n : Nat} {s : State} {c : FaultCode} (h : discardPlaceholders n s = .error c) :
    c = .cqUnderflow := by
  induction n generalizing s with
  | zero => cases h
  | succ n ih =>
    unfold discardPlaceholders at h
    split at h
    · exact ih h
    · split at h
      · rename_i k hn; injection h with h; subst h; exact (callNext_error hn).2.2
      · exact ih h

/-! ## The responder -/

/-- R187: the entry state 4 supplies is an entry of the table. -/
theorem nextEntry_le_lmask {s : State} (h : s.legal = true) : (nextEntry s).toNat ≤ s.cfg.lmask := by
  obtain ⟨hw, -, -, -, hr, -⟩ := (legal_iff s).1 h
  unfold nextEntry
  split
  · rcases ((Config.wf_iff _).1 hw).2.1 with hb | hb <;>
      simp only [Config.lmask, Config.regCount, hb, BitVec.toNat_ofNat] <;> omega
  · exact hr

/-- R191: the handler changes the selection and the pending values only. -/
theorem pwmHandler_frame (l v : Byte) (s : State) :
    ∃ c p, pwmHandler l v s = { s with dsSel := c, dsPending := p } := by
  unfold pwmHandler
  split
  · exact ⟨_, _, rfl⟩
  · exact ⟨s.dsSel, s.dsPending, rfl⟩

/-! ## Every rule -/

/-- A completed rule writes no configuration, no fault record, no issued word and no observation: those belong to the
interface (R11, R39, R242). -/
theorem body_frame {i : Instr} {s : State} {e : Effect} (h : bodyOf i s = .ok e) :
    e.st.fault = s.fault ∧ e.st.cfg = s.cfg ∧ e.st.ops = s.ops ∧ e.st.trace = s.trace := by
  cases i <;>
    try simp only [bodyOf, qIsEmptyBody, qEnqBody, qDeqBody, qResetBody, cAvailBody, cNextBody, cSentBody, rOnEndBody,
      rTakeBody, iArmBody, iStepBody, iSetRhBody, sStartBody, sStopBody, sByteWBody, sByteRBody, sSetChBody, dSelBody,
      dTickBody, dDutyBody] at h
  case qEnq b =>
    split at h; cases h; rename_i ha; injection h with h; subst h; obtain ⟨-, rfl⟩ := cqAppend_ok ha; simp
  case qDeq =>
    split at h; cases h; rename_i ha; injection h with h; subst h; obtain ⟨_, -, rfl⟩ := cqRemove_ok ha; simp
  case cAvail => injection h with h; subst h; rcases callAvail_cases s with ⟨-, h⟩ | ⟨-,-,h⟩ | ⟨-,-,h⟩ <;> simp [h]
  case cNext =>
    split at h; cases h; rename_i ha; injection h with h; subst h
    rcases callNext_ok ha with ⟨-,-,rfl⟩ | ⟨-,_,-,rfl⟩ <;> simp
  case cPrep2 => obtain ⟨-, rfl⟩ := prepare_ok h; simp
  case cPrep3 => obtain ⟨-, rfl⟩ := prepare_ok h; simp
  case rOnEnd =>
    split at h; cases h; rename_i ha; injection h with h; subst h
    rcases callOnEnd_ok ha with ⟨-,-,rfl⟩ | ⟨-,rfl⟩ <;> simp
  case rTake =>
    split at h; cases h; rename_i ha; injection h with h; subst h; obtain ⟨_, -, rfl⟩ := rxqRemove_ok ha; simp
  case iArm => split at h; injection h with h; subst h; simp; cases h
  case iStep rx =>
    split at h
    · unfold stepAddr at h
      rcases callAvail_cases s with ⟨-, hc⟩ | ⟨-,-,hc⟩ | ⟨-,-,hc⟩ <;> rw [hc] at h <;> simp only at h
      · injection h with h; subst h; simp
      · split at h
        cases h; rename_i ha; injection h with h; subst h
        rcases callNext_ok ha with ⟨-,-,rfl⟩ | ⟨-,_,-,rfl⟩ <;> simp
      · split at h
        cases h; rename_i ha; injection h with h; subst h
        rcases callNext_ok ha with ⟨-,-,rfl⟩ | ⟨-,_,-,rfl⟩ <;> simp
    · unfold stepDataOut at h
      split at h; cases h; rename_i ha; injection h with h; subst h
      rcases callNext_ok ha with ⟨-,-,rfl⟩ | ⟨-,_,-,rfl⟩ <;> simp <;> split <;> simp
    · unfold stepPrepIn at h
      split at h; cases h; rename_i ha; injection h with h; subst h
      obtain ⟨_,_,rfl,-⟩ := discardPlaceholders_frame ha; simp
    · unfold stepDataIn at h
      split at h; injection h with h; subst h; simp; cases h
    · injection h with h; subst h; simp
    · unfold stepDone at h
      rcases callAvail_cases s with ⟨-, hc⟩ | ⟨-,-,hc⟩ | ⟨-,-,hc⟩ <;> rw [hc] at h <;> simp only at h <;> injection h with h <;> subst h <;> simp
  case iSetRh => split at h; injection h with h; subst h; simp; cases h
  case sStop =>
    split at h; injection h with h; subst h; simp; split at h; cases h; rename_i ha; injection h with h; subst h
    rcases callOnEnd_ok ha with ⟨-,-,rfl⟩ | ⟨-,rfl⟩ <;> simp
  case sByteW b =>
    split at h
    · injection h with h; subst h; simp
    · unfold writeAddress at h; simp only at h; split at h <;> injection h with h <;> subst h <;> simp [callOnAddr]
    · unfold writeData at h; split at h
      · split at h; cases h
        · injection h with h; subst h; obtain ⟨_,_,h⟩ := pwmHandler_frame s.rsLocal b s; simp [h]
        · injection h with h; subst h; simp
      · injection h with h; subst h; simp [callOnData]
  case sByteR b =>
    split at h <;> injection h with h <;> subst h <;> simp
  case sSetCh => split at h; injection h with h; subst h; simp; cases h
  case dSel => split at h; injection h with h; subst h; simp [callSel]; cases h
  case dDuty => split at h; injection h with h; subst h; simp; cases h
  all_goals (injection h with h; subst h; simp [callOnAddr, callOnData, regWrite, callSetP, reinitialized])

end Sys2Proof.Machine
end

