-- ==== Sys2Proof/Laws/PerInstr.lean ====
section
/-! SUPPORT. Statements made of every instruction, one lemma per constructor of Instr. -/

namespace Sys2Proof.Laws.EncodedFields

/-- The fields of an instruction's word are its opcode and its operand bytes, 0 where its format has none (R70 to R73). -/
def Statement (i : Instr) : Prop :=
  opcodeField (encode i) = i.opcode ∧ fieldA (encode i) = i.operands.getD 0 0 ∧
  fieldB (encode i) = i.operands.getD 1 0 ∧ fieldC (encode i) = i.operands.getD 2 0

/-- The statement holds because a word made of four bytes has them as its fields. -/
theorem of_mkWord (i : Instr) : Statement i :=
  ⟨opcodeField_mkWord .., fieldA_mkWord .., fieldB_mkWord .., fieldC_mkWord ..⟩

theorem qIsEmpty : Statement .qIsEmpty := of_mkWord _
theorem qEnq (b : Byte) : Statement (.qEnq b) := of_mkWord _
theorem qDeq : Statement .qDeq := of_mkWord _
theorem qReset : Statement .qReset := of_mkWord _
theorem cAvail : Statement .cAvail := of_mkWord _
theorem cNext : Statement .cNext := of_mkWord _
theorem cSent : Statement .cSent := of_mkWord _
theorem cPrep2 (a v : Byte) : Statement (.cPrep2 a v) := of_mkWord _
theorem cPrep3 (a k v : Byte) : Statement (.cPrep3 a k v) := of_mkWord _
theorem rOnAddr (a : Byte) : Statement (.rOnAddr a) := of_mkWord _
theorem rOnData (b : Byte) : Statement (.rOnData b) := of_mkWord _
theorem rOnEnd : Statement .rOnEnd := of_mkWord _
theorem rHas : Statement .rHas := of_mkWord _
theorem rTake : Statement .rTake := of_mkWord _
theorem iArm : Statement .iArm := of_mkWord _
theorem iStep (rx : Byte) : Statement (.iStep rx) := of_mkWord _
theorem iSetRh (h : Byte) : Statement (.iSetRh h) := of_mkWord _
theorem sStart : Statement .sStart := of_mkWord _
theorem sStop : Statement .sStop := of_mkWord _
theorem sByteW (b : Byte) : Statement (.sByteW b) := of_mkWord _
theorem sByteR (b : Byte) : Statement (.sByteR b) := of_mkWord _
theorem sExpose (l v : Byte) : Statement (.sExpose l v) := of_mkWord _
theorem sSetCh (h : Byte) : Statement (.sSetCh h) := of_mkWord _
theorem dSel (i : Byte) : Statement (.dSel i) := of_mkWord _
theorem dSetP (v : Byte) : Statement (.dSetP v) := of_mkWord _
theorem dTick : Statement .dTick := of_mkWord _
theorem dDuty (c : Byte) : Statement (.dDuty c) := of_mkWord _
theorem xReinit : Statement .xReinit := of_mkWord _

end Sys2Proof.Laws.EncodedFields
end

