-- ==== Sys2Proof/Tests/Slice0.lean ====
section
/-! SUPPORT. Tests. Every expected value is taken from spec/: the word layouts of 30_encoding.md R70 to R73 and the
vectors V-… of 95_test_vectors.md, named in each comment. Then one witness per statement with hypotheses. -/

namespace Sys2Proof.Tests

open Sys2Proof.Machine Sys2Proof.Claims

/-! ## The configurations of 95_test_vectors.md section 0, at POR -/

def cfgQ2 : Config := { Config.reference with rxMode := .queued }
def cfgQ3 : Config := { Config.reference with fieldCount := 3, rxMode := .queued }
def cfgL2 : Config := { Config.reference with localBits := 2, respAddrBase := 0x04 }
def cfgNoInc : Config := { Config.reference with readAutoIncrement := false }

def ref : State := State.por Config.reference
def q2 : State := State.por cfgQ2
def q3 : State := State.por cfgQ3
def l2 : State := State.por cfgL2
def noInc : State := State.por cfgNoInc

/-- The state a step or an operation answers. -/
def nx : Host.Outcome State Fault Refusal → Option State
  | .next t => some t
  | .fault _ => none
  | .refused _ => none

/-- One step on `s` with the word `w` issued. -/
def run (w : Nat) (s : State) : Option State := nx (step (s.withFetchWord 32 w))

/-- What the step on `s` with `w` issued adds to the observations. -/
def seen (w : Nat) (s : State) : Option (List Observation) := (run w s).map (·.trace)

/-- The fault an operation leaves: its code and its word. -/
def faulted (w : Nat) (s : State) : Option (Option (Nat × Word)) :=
  (run w s).map fun t => t.fault.map fun f => (f.code.code, f.word)

/-! ## Well-formedness: each check refuses -/

-- R75: the mode gates
theorem test_wf_prep2_gate : Instr.wf cfgQ3 (.cPrep2 1 2) = false ∧ Instr.wf cfgQ2 (.cPrep2 1 2) = true := by decide
theorem test_wf_prep3_gate :
    Instr.wf Config.reference (.cPrep3 1 2 3) = false ∧ Instr.wf cfgQ3 (.cPrep3 1 2 3) = true := by decide
theorem test_wf_receive_gate :
    Instr.wf Config.reference (.rOnAddr 0) = false ∧ Instr.wf Config.reference (.rOnData 0) = false ∧
    Instr.wf Config.reference .rOnEnd = false ∧ Instr.wf Config.reference .rHas = false ∧
    Instr.wf Config.reference .rTake = false ∧ Instr.wf cfgQ2 .rTake = true := by decide

-- R76: the operand ranges, at their ends
theorem test_wf_ranges :
    Instr.wf Config.reference (.iSetRh 1) = true ∧ Instr.wf Config.reference (.iSetRh 2) = false ∧
    Instr.wf Config.reference (.sSetCh 2) = true ∧ Instr.wf Config.reference (.sSetCh 3) = false ∧
    Instr.wf Config.reference (.dSel 1) = true ∧ Instr.wf Config.reference (.dSel 2) = false ∧
    Instr.wf Config.reference (.dDuty 1) = true ∧ Instr.wf Config.reference (.dDuty 2) = false := by decide
theorem test_wf_expose_range :
    Instr.wf Config.reference (.sExpose 1 0xFF) = true ∧ Instr.wf Config.reference (.sExpose 2 0xFF) = false ∧
    Instr.wf cfgL2 (.sExpose 3 0xFF) = true ∧ Instr.wf cfgL2 (.sExpose 4 0xFF) = false := by decide

-- R9: each condition of a well-formed configuration
theorem test_config_field_count : Config.wf { cfgQ3 with fieldCount := 4 } = false := by decide
theorem test_config_local_bits : Config.wf { cfgQ2 with localBits := 3 } = false := by decide
theorem test_config_cq_capacity :
    Config.wf { cfgQ2 with cqCapacity := 3 } = false ∧ Config.wf { cfgQ2 with cqCapacity := 4 } = true := by decide
theorem test_config_rxq_capacity :
    Config.wf { cfgQ2 with rxqCapacity := 0 } = false ∧ Config.wf { cfgQ2 with rxqCapacity := 1 } = true := by decide
theorem test_config_three_byte_is_queued : Config.wf { cfgQ3 with rxMode := .sync } = false := by decide

/-! ## Decoding: a word of every row, written from R70 to R73 (opcode in bits 31..24, operands A, B, C below) -/

theorem test_decode_queue :
    decode 0b00000001000000000000000000000000 = .ok .qIsEmpty ∧
    decode 0b00000010101001010000000000000000 = .ok (.qEnq 0b10100101) ∧
    decode 0x03000000 = .ok .qDeq ∧ decode 0x04000000 = .ok .qReset := by decide
theorem test_decode_transmit :
    decode 0b00010011000011000000101000000000 = .ok (.cPrep2 0b00001100 0b00001010) ∧
    decode 0b00010100000011000000000101111111 = .ok (.cPrep3 0b00001100 0b00000001 0b01111111) ∧
    decode 0x10000000 = .ok .cAvail ∧ decode 0x11000000 = .ok .cNext ∧ decode 0x12000000 = .ok .cSent := by decide
theorem test_decode_receive :
    decode 0b00100001011111110000000000000000 = .ok (.rOnData 0b01111111) ∧
    decode 0x20010000 = .ok (.rOnAddr 0x01) ∧ decode 0x22000000 = .ok .rOnEnd ∧ decode 0x23000000 = .ok .rHas ∧
    decode 0x24000000 = .ok .rTake := by decide
theorem test_decode_initiator :
    decode 0b00110001010110100000000000000000 = .ok (.iStep 0b01011010) ∧
    decode 0x30000000 = .ok .iArm ∧ decode 0x32010000 = .ok (.iSetRh 0x01) := by decide
theorem test_decode_responder :
    decode 0b01000100000000000101101000000000 = .ok (.sExpose 0b00000000 0b01011010) ∧
    decode 0x40000000 = .ok .sStart ∧ decode 0x41000000 = .ok .sStop ∧ decode 0x420E0000 = .ok (.sByteW 0x0E) ∧
    decode 0x430D0000 = .ok (.sByteR 0x0D) ∧ decode 0x45020000 = .ok (.sSetCh 0x02) := by decide
theorem test_decode_duty_and_system :
    decode 0b01010001001000000000000000000000 = .ok (.dSetP 0b00100000) ∧
    decode 0x50010000 = .ok (.dSel 0x01) ∧ decode 0x52000000 = .ok .dTick ∧ decode 0x53010000 = .ok (.dDuty 0x01) ∧
    decode 0b01100000000000000000000000000000 = .ok .xReinit := by decide

-- R72, R74 (V-E2): unassigned opcodes, and a reserved byte that is not 0 in each format that has one
theorem test_decode_illegal :
    decode 0x05000000 = .error (.unassignedOpcode 0x05) ∧ decode 0x25000000 = .error (.unassignedOpcode 0x25) ∧
    decode 0x46000000 = .error (.unassignedOpcode 0x46) ∧ decode 0x61000000 = .error (.unassignedOpcode 0x61) ∧
    decode 0x01010000 = .error (.reservedByteNotZero 0x01) ∧ decode 0x02000100 = .error (.reservedByteNotZero 0x02) ∧
    decode 0x13000001 = .error (.reservedByteNotZero 0x13) := by decide

-- the host numbers bits from the least significant one, as R70 does
theorem test_table_word : decodeTableWord 32 0x130C0A00 = some (.cPrep2 0x0C 0x0A) ∧ decodeTableWord 32 0 = none := by
  decide

/-! ## One step each: Command Queue -/

-- V-Q1
theorem test_qIsEmpty : seen 0x01000000 ref = some [⟨[], .bool true⟩] ∧
    seen 0x01000000 { ref with cq := [3] } = some [⟨[], .bool false⟩] := by decide
theorem test_qEnq : (run 0x02020000 { ref with cq := [1] }).map (·.cq) = some [1, 2] := by decide
-- V-Q2
theorem test_qEnq_full : faulted 0x02090000 { ref with cq := [1, 2, 3, 4, 5, 6, 7, 8] } = some (some (2, 0x02090000)) ∧
    (run 0x02090000 { ref with cq := [1, 2, 3, 4, 5, 6, 7, 8] }).map (·.cq) = some [1, 2, 3, 4, 5, 6, 7, 8] := by decide
-- V-Q1, V-C9 (cs stays)
theorem test_qDeq : seen 0x03000000 { ref with cq := [0x0A], cs := .valueP } = some [⟨[], .byte 0x0A⟩] ∧
    (run 0x03000000 { ref with cq := [0x0A], cs := .valueP }).map (·.cs) = some .valueP := by decide
-- V-Q3
theorem test_qDeq_empty : faulted 0x03000000 ref = some (some (1, 0x03000000)) := by decide
-- V-Q4
theorem test_qReset : (run 0x04000000 { ref with cq := [0x0A], cs := .valueP }).map (fun t => (t.cq, t.cs)) =
    some ([], .valueP) := by decide

/-! ## Transmit codec -/

-- V-Q5, V-C6
theorem test_cAvail : (run 0x10000000 { ref with cq := [0x0C] }).map (·.cs) = some .addrP ∧
    (run 0x10000000 { ref with cs := .complete }).map (·.cs) = some .complete := by decide
-- V-C1, V-C4
theorem test_cNext : (run 0x11000000 { ref with cq := [0x0C, 0x0A], cs := .addrP }).map (·.cs) = some .valueP ∧
    (run 0x11000000 { q3 with cq := [0x0C, 1, 0x7F], cs := .addrP }).map (·.cs) = some .kindP := by decide
-- V-C3: the sentinel consumes nothing; V-Q4: CQ_UNDERFLOW
theorem test_cNext_ends : (run 0x11000000 { ref with cq := [0x0E, 0x14], cs := .complete }).map (fun t => (t.cq, t.trace)) =
      some ([0x0E, 0x14], [⟨[], .byte 0⟩]) ∧
    faulted 0x11000000 { ref with cs := .valueP } = some (some (1, 0x11000000)) := by decide
-- V-C1, V-C5
theorem test_cSent : seen 0x12000000 { ref with cs := .complete } = some [⟨[], .bool true⟩] ∧
    seen 0x12000000 ref = some [⟨[], .bool false⟩] := by decide
-- V-C3: mid-command over a non-empty queue; V-C9: the queue was empty
theorem test_cPrep2 :
    (run 0x130E1400 { ref with cq := [0x0A], cs := .valueP }).map (fun t => (t.cq, t.cs)) = some ([0x0A, 0x0E, 0x14], .valueP) ∧
    (run 0x130E1400 { ref with cq := [], cs := .valueP }).map (fun t => (t.cq, t.cs)) = some ([0x0E, 0x14], .addrP) := by decide
-- V-C7: one byte free is no room for a frame
theorem test_cPrep2_full :
    faulted 0x130C0500 { ref with cq := [1, 2, 3, 4, 5, 6, 7] } = some (some (2, 0x130C0500)) := by decide
-- V-C4, V-C8
theorem test_cPrep3 : (run 0x140C017F q3).map (fun t => (t.cq, t.cs)) = some ([0x0C, 0x01, 0x7F], .addrP) ∧
    faulted 0x140C0102 ref = some (some (8, 0x140C0102)) := by decide

/-! ## Receive codec -/

-- V-R1
theorem test_rOnAddr : (run 0x20010000 { q3 with stValue := 9, stNd := 3 }).map
    (fun t => (t.stValid, t.stAddr, t.stValue, t.stNd)) = some (true, 1, 0, 0) := by decide
-- V-R1: the shift of the 3-byte revision; V-R3: none in the 2-byte one
theorem test_rOnData :
    (run 0x217F0000 { q3 with stValue := 1, stNd := 1 }).map (fun t => (t.stKind, t.stValue, t.stNd)) = some (1, 0x7F, 2) ∧
    (run 0x21640000 { q2 with stValue := 1 }).map (fun t => (t.stKind, t.stValue, t.stNd)) = some (0, 0x64, 1) := by decide
-- R32: the count saturates at 255
theorem test_rOnData_saturates : (run 0x21010000 { q2 with stNd := 255 }).map (·.stNd) = some 255 := by decide
-- V-R1, V-R2
theorem test_rOnEnd :
    (run 0x22000000 { q3 with stValid := true, stKind := 1, stValue := 0x7F, stNd := 2 }).map (fun t => (t.rxq, t.stValid)) =
      some ([⟨0, 1, 0x7F⟩], false) ∧
    (run 0x22000000 { q3 with stValid := true, stNd := 1 }).map (fun t => (t.rxq, t.stValid)) = some ([], false) := by decide
-- V-R6
theorem test_rOnEnd_full :
    (run 0x22000000 { q2 with stValid := true, stNd := 1, rxq := List.replicate 4 ⟨0, 0, 0x10⟩ }).map
      (fun t => (t.stValid, t.fault)) = some (true, some ⟨.rxqOverflow, 0x22000000⟩) := by decide
-- V-R1, V-R7
theorem test_rHas : seen 0x23000000 { q3 with rxq := [⟨0, 1, 2⟩] } = some [⟨[], .bool true⟩] ∧
    faulted 0x23000000 ref = some (some (8, 0x23000000)) := by decide
-- V-R1, V-R5
theorem test_rTake : seen 0x24000000 { q3 with rxq := [⟨0, 1, 0x7F⟩] } = some [⟨[], .command ⟨0, 1, 0x7F⟩⟩] ∧
    faulted 0x24000000 q3 = some (some (3, 0x24000000)) := by decide

/-! ## Bus Initiator Engine -/

-- V-I11, V-I4
theorem test_iArm : seen 0x30000000 ref = some [⟨[.busStart], .none⟩] ∧
    faulted 0x30000000 { ref with iniState := .dataOut } = some (some (5, 0x30000000)) := by decide
-- V-I1, V-I2: the direction bit selects the next state
theorem test_iStep_address :
    (run 0x31000000 { ref with cq := [0x0C, 0x0A], cs := .addrP }).map (fun t => (t.trace, t.iniState, t.iniAddr)) =
      some ([⟨[.busTx 0x0C], .none⟩], .dataOut, 0x0C) ∧
    (run 0x31000000 { ref with cq := [0x0D, 0x00], cs := .addrP }).map (·.iniState) = some .prepIn := by decide
-- V-I2, V-I3
theorem test_iStep_data_in :
    seen 0x315A0000 { ref with iniState := .dataIn, iniAddr := 0x0D, cs := .complete, rhSet := true } =
      some [⟨[.result 0x0D 0x5A, .busNack], .none⟩] ∧
    faulted 0x315A0000 { ref with iniState := .dataIn, iniAddr := 0x0D, cs := .complete } =
      some (some (7, 0x315A0000)) := by decide
-- V-I2, V-I9
theorem test_iSetRh : (run 0x32010000 ref).map (·.rhSet) = some true ∧
    faulted 0x32020000 ref = some (some (8, 0x32020000)) := by decide

/-! ## Bus Responder Engine -/

-- V-S10
theorem test_sStart : (run 0x40000000 { ref with rsPhase := .data, rsLocal := 1, rsRdptr := 1, rsDir := .read }).map
    (fun t => (t.rsPhase, t.rsDir, t.rsLocal, t.rsRdptr)) = some (.addr, .write, 0, 0) := by decide
-- V-S1, V-S7
theorem test_sStop : (run 0x41000000 { ref with rsPhase := .data }).map (·.rsPhase) = some .none ∧
    (run 0x41000000 { q3 with rsPhase := .data, stValid := true, stKind := 1, stValue := 0x7F, stNd := 2 }).map (·.rxq) =
      some [⟨0, 1, 0x7F⟩] := by decide
-- V-E1, V-S12
theorem test_sByteW_address :
    (run 0x420E0000 { ref with rsPhase := .addr }).map (fun t => (t.rsLocal, t.rsPhase)) = some (1, .data) ∧
    (run 0x420F0000 { ref with rsPhase := .addr }).map (fun t => (t.rsLocal, t.rsDir)) = some (1, .write) := by decide
-- V-S1, V-S2
theorem test_sByteW_data :
    (run 0x42640000 { ref with rsPhase := .data, rsLocal := 1, chHandler := .pwm }).map
      (fun t => (t.trace, t.dsSel, t.dsPending)) = some ([⟨[.cmd 1 0x64], .none⟩], .ch1, ⟨0, 0x64⟩) ∧
    faulted 0x42100000 { ref with rsPhase := .data } = some (some (6, 0x42100000)) := by decide
-- V-S4 (wraps), V-S5
theorem test_sByteR :
    seen 0x43000000 { ref with rsPhase := .data, rsRdptr := 1, regs := [0x5A, 0x33] } = some [⟨[.respTx 0x5A], .none⟩] ∧
    seen 0x43000000 { noInc with rsPhase := .data, regs := [0x5A, 0x33] } = some [⟨[.respTx 0x5A], .none⟩] := by decide
-- V-E1, V-S8
theorem test_sExpose : (run 0x44013300 { ref with regs := [0x5A, 0] }).map (·.regs) = some [0x5A, 0x33] ∧
    faulted 0x44020500 ref = some (some (8, 0x44020500)) := by decide
-- V-S3, V-S11
theorem test_sSetCh : (run 0x45020000 ref).map (·.chHandler) = some .external ∧
    faulted 0x45030000 ref = some (some (8, 0x45030000)) := by decide

/-! ## Duty Scheduler and system -/

-- V-D1, V-D4
theorem test_dSel : (run 0x50010000 ref).map (·.dsSel) = some .ch1 ∧
    faulted 0x50020000 ref = some (some (8, 0x50020000)) := by decide
-- V-D1
theorem test_dSetP : (run 0x51200000 { ref with dsSel := .ch1, dsPending := ⟨0x10, 0⟩ }).map (·.dsPending) =
    some ⟨0x10, 0x20⟩ := by decide
-- V-D1
theorem test_dTick : (run 0x52000000 { ref with dsPending := ⟨0x10, 0x20⟩ }).map
    (fun t => (t.dsPhase, t.dsCurrent, t.trace)) = some (.ch1, ⟨0x10, 0x20⟩, [⟨[], .bool true⟩]) := by decide
-- V-D1, V-D4
theorem test_dDuty : seen 0x53010000 { ref with dsPhase := .ch1, dsCurrent := ⟨0x10, 0x20⟩ } = some [⟨[], .byte 0x20⟩] ∧
    faulted 0x53020000 ref = some (some (8, 0x53020000)) := by decide
-- V-X2, V-X3
theorem test_xReinit :
    (run 0x60000000 { ref with chHandler := .pwm, cq := [1], cs := .addrP, dsSel := .ch1 }).map
      (fun t => (t.chHandler, t.cq, t.cs, t.dsSel)) = some (.pwm, [], .noCmd, .ch1) ∧
    faulted 0x60000000 { ref with fault := some ⟨.cqUnderflow, 0x03000000⟩ } = some (some (1, 0x03000000)) := by decide

/-! ## Composition and assembler -/

-- R255 (P3): 0x0C and 0x0F are of the responder's base 0x06, 0x10 is not
theorem test_address_match : addressMatches Config.reference 0x0C = true ∧ addressMatches Config.reference 0x0F = true ∧
    addressMatches Config.reference 0x10 = false := by decide
-- R87 (P1, P4); R88: an address above 0x7F, a wrong operand count, a literal above 8 bits
theorem test_assemble : assembleLine "        C.PREP2 0x0C, 0x0A   ; 0x130C0A00" = some [0x130C0A00] ∧
    assembleLine "S.BYTEW 0b00001110" = some [0x420E0000] ∧ assembleLine "WR2 0x06, 10" = some [0x130C0A00] ∧
    assembleLine "; a comment" = some [] ∧ assembleLine "RD2 0x80" = none ∧ assembleLine "Q.ENQ" = none ∧
    assembleLine "Q.ENQ 256" = none := by decide

/-! ## Witnesses: states and operands that meet the hypotheses of each statement, clause by clause -/

/-- A full Command Queue, and one with one byte free. -/
def full8 : List Byte := [1, 2, 3, 4, 5, 6, 7, 8]
def full7 : List Byte := [1, 2, 3, 4, 5, 6, 7]

/-- A full receive queue. -/
def rxq4 : List Command := List.replicate 4 ⟨0, 0, 0x10⟩

theorem witness_StepPerformsTheOldestIssuedWord :
    State.ops { ref with ops := [0x02010000, 0x03000000] } = 0x02010000 :: [0x03000000] ∧
    decode 0x02010000 = .ok (.qEnq 0x01) ∧ ref.ops = [] ∧ decodeTableWord 32 0x02010000 = some (.qEnq 0x01) := by decide

theorem witness_IllegalWordRecordsIllegalOp :
    State.Ready { ref with ops := [0x05000000] } ∧ State.ops { ref with ops := [0x05000000] } = [0x05000000] ∧
    decode 0x05000000 = .error (.unassignedOpcode 0x05) := by decide

theorem witness_DecodedWordIsTheInstructionsWord : decode 0x140C017F = .ok (.cPrep3 0x0C 0x01 0x7F) := by decide

theorem witness_FaultedBlockIsQuiescent :
    State.legal { ref with fault := some ⟨.cqUnderflow, 0x03000000⟩, ops := [0x60000000] } = true ∧
    State.fault { ref with fault := some ⟨.cqUnderflow, 0x03000000⟩, ops := [0x60000000] } =
      some ⟨.cqUnderflow, 0x03000000⟩ ∧
    State.ops { ref with fault := some ⟨.cqUnderflow, 0x03000000⟩, ops := [0x60000000] } = [0x60000000] := by decide

theorem witness_FaultingOperationChangesOnlyFault :
    (∃ t, exec .qDeq ref = .next t ∧ ref.fault = none ∧ t.fault ≠ none) ∧
    ∃ t, step { ref with ops := [0x05000000] } = .next t ∧ t.fault ≠ none :=
  ⟨⟨_, rfl, by decide, by decide⟩, ⟨_, rfl, by decide⟩⟩

theorem witness_ClosedGateRecordsIllegalOp :
    (q3.Ready ∧ q3.cfg.fieldCount ≠ 2) ∧ (ref.Ready ∧ ref.cfg.fieldCount ≠ 3) ∧ (ref.Ready ∧ ref.cfg.rxMode = .sync) := by
  decide

theorem witness_OperandOutOfRangeRecordsIllegalOp :
    ref.Ready ∧ l2.Ready ∧ 1 < (2 : Byte).toNat ∧ 2 < (3 : Byte).toNat ∧ 2 ^ ref.cfg.localBits - 1 < (2 : Byte).toNat ∧
    2 ^ l2.cfg.localBits - 1 < (4 : Byte).toNat := by decide

/-- The fault an operation leaves. -/
def faultOf (i : Instr) (s : State) : Option FaultCode := (nx (exec i s)).bind fun t => t.fault.map (·.code)

theorem witness_FaultCodesAreRaisedOnlyByTheirOperations :
    faultOf .qDeq ref = some .cqUnderflow ∧ faultOf (.qEnq 9) { ref with cq := full8 } = some .cqOverflow ∧
    faultOf .rTake q2 = some .rxqUnderflow ∧
    faultOf .sStop { q2 with stValid := true, stNd := 1, rxq := rxq4 } = some .rxqOverflow ∧
    faultOf .iArm { ref with iniState := .stop } = some .armBusy ∧
    faultOf (.sByteW 1) { ref with rsPhase := .data } = some .noCmdHandler ∧
    faultOf (.iStep 1) { ref with iniState := .dataIn } = some .noResultHandler ∧
    faultOf (.dSel 2) ref = some .illegalOp := by decide

theorem witness_QueueTestAndResetResult :
    ref.Ready ∧ State.Ready { ref with cq := full8 } := by decide

theorem witness_EnqueueAppendsTheByte :
    (State.Ready { ref with cq := full7 } ∧ full7.length ≠ ref.cfg.cqCapacity) ∧
    (State.Ready { ref with cq := full8 } ∧ full8.length = ref.cfg.cqCapacity) := by decide

theorem witness_DequeueReturnsTheHead :
    (State.Ready { ref with cq := [7] } ∧ State.cq { ref with cq := [7] } = 7 :: []) ∧ (ref.Ready ∧ ref.cq = []) := by
  decide

theorem witness_RemovedBytesAreTheAppendedBytesInOrder :
    (∀ i ∈ [Instr.qEnq 5, .cNext, .qDeq], FifoOp i) ∧ ref.fault = none ∧
    ∃ t, execAll [.qEnq 5, .cNext, .qDeq] ref = .next t ∧ t.fault = none := by
  refine ⟨?_, rfl, _, rfl, rfl⟩
  intro i hi
  simp only [List.mem_cons, List.not_mem_nil, or_false] at hi
  rcases hi with rfl | rfl | rfl
  · exact .inl ⟨5, rfl⟩
  · exact .inr (.inr (.inr (.inr rfl)))
  · exact .inr (.inl rfl)

theorem witness_AvailableRearmsAnIdleCodec :
    (ref.Ready ∧ ref.cq = []) ∧
    (State.Ready { ref with cq := [1] } ∧ ([1] : List Byte) ≠ [] ∧ State.cs { ref with cq := [1] } = .noCmd) ∧
    (State.Ready { ref with cq := [1], cs := .complete }) ∧
    (State.Ready { ref with cq := [1], cs := .valueP } ∧ FieldPos.valueP ≠ .noCmd ∧ FieldPos.valueP ≠ .complete) := by
  decide

theorem witness_NextByteAdvancesTheFieldPosition :
    (ref.Ready ∧ ref.cs = .noCmd) ∧ State.Ready { ref with cs := .complete } ∧
    (State.Ready { ref with cs := .valueP } ∧ FieldPos.valueP ≠ .noCmd ∧ FieldPos.valueP ≠ .complete ∧ ref.cq = []) ∧
    (State.Ready { ref with cs := .addrP, cq := [0x0C, 0x0A] }) ∧ (State.Ready { q3 with cs := .addrP, cq := [0x0C, 1, 2] }) ∧
    (State.Ready { q3 with cs := .kindP, cq := [1, 2] }) ∧ (State.Ready { ref with cs := .valueP, cq := [0x0A] }) := by
  decide

theorem witness_FullySentIffComplete : ref.Ready ∧ State.Ready { ref with cs := .complete } := by decide

theorem witness_PrepareTwoByteCommand :
    (ref.Ready ∧ ref.cfg.fieldCount = 2 ∧ ref.cq.length + 2 ≤ ref.cfg.cqCapacity) ∧
    (State.Ready { ref with cq := [1, 2, 3, 4, 5, 6], cs := .valueP } ∧ 6 + 2 ≤ ref.cfg.cqCapacity) ∧
    (State.Ready { ref with cq := full7 } ∧ ref.cfg.cqCapacity < full7.length + 2) := by decide

theorem witness_PrepareThreeByteCommand :
    (q3.Ready ∧ q3.cfg.fieldCount = 3 ∧ q3.cq.length + 3 ≤ q3.cfg.cqCapacity) ∧
    (State.Ready { q3 with cq := [1, 2, 3, 4, 5], cs := .kindP } ∧ 5 + 3 ≤ q3.cfg.cqCapacity) ∧
    (State.Ready { q3 with cq := [1, 2, 3, 4, 5, 6] } ∧ q3.cfg.cqCapacity < 6 + 3) := by decide

theorem witness_CodecStaysAlignedWithTheQueue :
    ∃ t, exec .cNext { q3 with cs := .kindP, cq := [1, 2] } = .next t ∧ ¬ RawQueueOp .cNext ∧
      State.KindLegal { q3 with cs := .kindP, cq := [1, 2] } ∧ State.Aligned { q3 with cs := .kindP, cq := [1, 2] } := by
  refine ⟨_, rfl, ?_, by decide, by decide⟩
  rintro (⟨b, h⟩ | h | h) <;> cases h

theorem witness_AlignedInitiatorNeverUnderflows :
    ∃ t, exec (.iStep 0) { ref with cs := .valueP, cq := [1] } = .next t ∧
      State.fault { ref with cs := .valueP, cq := [1] } = none ∧ State.KindLegal { ref with cs := .valueP, cq := [1] } ∧
      State.Aligned { ref with cs := .valueP, cq := [1] } := ⟨_, rfl, by decide, by decide, by decide⟩

-- its conclusion speaks of a fault: the one an aligned I.STEP can raise
theorem witness_AlignedInitiatorFaults :
    State.KindLegal { ref with iniState := .dataIn, cs := .complete } ∧
    State.Aligned { ref with iniState := .dataIn, cs := .complete } ∧
    faultOf (.iStep 0) { ref with iniState := .dataIn, cs := .complete } = some .noResultHandler := by decide

theorem witness_QueueResetMidCommandMakesNextUnderflow :
    State.Ready { ref with cs := .valueP, cq := [1] } ∧ FieldPos.valueP ≠ .noCmd ∧ FieldPos.valueP ≠ .complete := by decide

theorem witness_StagingCommandIsOpenedAndFilled :
    (q2.Ready ∧ q2.cfg.rxMode = .queued) ∧ (State.Ready { q3 with stNd := 255 } ∧ q3.cfg.rxMode = .queued) := by decide

theorem witness_TransactionEndPushesACompletedCommand :
    (State.Ready { q3 with stValid := true, stNd := 2 } ∧ q3.cfg.rxMode = .queued ∧
      q3.cfg.fieldCount - 1 ≤ (2 : Byte).toNat ∧ q3.rxq.length ≠ q3.cfg.rxqCapacity) ∧
    (State.Ready { q3 with stValid := true, stNd := 2, rxq := rxq4 } ∧ rxq4.length = q3.cfg.rxqCapacity) ∧
    (q3.stValid = false ∧ State.Ready { q3 with stValid := true, stNd := 1 } ∧
      (1 : Byte).toNat < q3.cfg.fieldCount - 1) := by decide

theorem witness_PendingCommandsAreTakenInOrder :
    (State.Ready { q2 with rxq := [⟨0, 1, 2⟩] } ∧ q2.cfg.rxMode = .queued) ∧ (q2.Ready ∧ q2.rxq = []) := by decide

theorem witness_ArmStartsFromAddrOrDoneOnly :
    (ref.Ready ∧ ref.iniState = .addr) ∧ State.Ready { ref with iniState := .done } ∧
    (State.Ready { ref with iniState := .stop } ∧ IniState.stop ≠ .addr ∧ IniState.stop ≠ .done) := by decide

theorem witness_AddressStepPlacesTheAddressByte :
    (ref.Ready ∧ ref.iniState = .addr ∧ ref.cq = []) ∧
    State.Ready { ref with cq := [0x0C, 0x0A] } ∧ State.Ready { q3 with cq := [0x0D, 0, 0], cs := .addrP } := by decide

theorem witness_DataOutStepPlacesOneByte :
    (State.Ready { ref with iniState := .dataOut, cs := .complete } ∧
      State.NoCmdIdle { ref with iniState := .dataOut, cs := .complete }) ∧
    (State.Ready { ref with iniState := .dataOut, cs := .valueP } ∧
      State.NoCmdIdle { ref with iniState := .dataOut, cs := .valueP } ∧ FieldPos.valueP ≠ .complete ∧ ref.cq = []) ∧
    (State.Ready { q3 with iniState := .dataOut, cs := .kindP, cq := [1, 2] } ∧
      State.NoCmdIdle { q3 with iniState := .dataOut, cs := .kindP, cq := [1, 2] }) := by decide

theorem witness_PrepareInStepDiscardsThePlaceholders :
    (State.Ready { q3 with iniState := .prepIn, cs := .kindP, cq := [0, 0] } ∧
      placeholders { q3 with iniState := .prepIn, cs := .kindP, cq := [0, 0] } = 2 ∧ 2 ≤ ([0, 0] : List Byte).length) ∧
    (State.Ready { ref with iniState := .prepIn, cs := .complete } ∧
      placeholders { ref with iniState := .prepIn, cs := .complete } = 0) ∧
    (State.Ready { q3 with iniState := .prepIn, cs := .kindP, cq := [0] } ∧
      ([0] : List Byte).length < placeholders { q3 with iniState := .prepIn, cs := .kindP, cq := [0] }) := by decide

theorem witness_DataInStepDeliversTheResult :
    (State.Ready { ref with iniState := .dataIn, rhSet := true }) ∧
    (State.Ready { ref with iniState := .dataIn } ∧ ref.rhSet = false) := by decide

theorem witness_StopAndDoneStepsEndTheTransaction :
    State.Ready { ref with iniState := .stop } ∧ (State.Ready { ref with iniState := .done } ∧ ref.cq = []) ∧
    State.Ready { ref with iniState := .done, cs := .complete, cq := [0x0E, 0x14] } := by decide

theorem witness_RegistrationSetsTheHandlerKind : ref.Ready := by decide

theorem witness_StepOperandIsReadInDataInOnly :
    ∃ t, exec (.iStep 1) ref = .next t ∧ ref.fault = none ∧ ref.iniState ≠ .dataIn ∧ t.fault = none :=
  ⟨_, rfl, by decide, by decide, by decide⟩

theorem witness_QueuedWriteEmitsStartTwoBytesStop :
    ref.Ready ∧ ref.cfg.fieldCount = 2 ∧ ref.cq = [] ∧ ref.iniState = .addr ∧ (0x0C : Byte).getLsbD 0 = false := by decide

theorem witness_StartRestartsTheTracking : State.Ready { ref with rsPhase := .data, rsLocal := 1 } := by decide

theorem witness_StopEndsTheTransaction :
    (ref.Ready ∧ ref.cfg.rxMode = .sync) ∧
    (State.Ready { q2 with stValid := true, stNd := 1 } ∧ q2.cfg.rxMode = .queued ∧
      q2.cfg.fieldCount - 1 ≤ (1 : Byte).toNat ∧ q2.rxq.length ≠ q2.cfg.rxqCapacity) ∧
    (State.Ready { q2 with stValid := true, stNd := 1, rxq := rxq4 } ∧ rxq4.length = q2.cfg.rxqCapacity) ∧
    (q2.Ready ∧ q2.stValid = false) := by decide

theorem witness_ByteEventWithoutStartHasNoEffect : ref.Ready ∧ ref.rsPhase = .none := by decide

theorem witness_WriteAddressByteRecordsTheSubAddress :
    (State.Ready { l2 with rsPhase := .addr } ∧ l2.cfg.rxMode = .sync) ∧
    (State.Ready { q3 with rsPhase := .addr } ∧ q3.cfg.rxMode = .queued) := by decide

theorem witness_WriteDataByteIsForwarded :
    (State.Ready { ref with rsPhase := .data } ∧ ref.cfg.rxMode = .sync ∧ ref.chHandler = .none) ∧
    State.Ready { ref with rsPhase := .data, chHandler := .external } ∧
    State.Ready { ref with rsPhase := .data, chHandler := .pwm } ∧
    State.Ready { ref with rsPhase := .data, chHandler := .pwm, rsLocal := 1 } ∧
    (State.Ready { l2 with rsPhase := .data, chHandler := .pwm, rsLocal := 2 } ∧ 1 < (2 : Byte).toNat) ∧
    (State.Ready { q3 with rsPhase := .data, stNd := 255 } ∧ q3.cfg.rxMode = .queued) := by decide

theorem witness_ReadAddressByteSuppliesItsEntry :
    State.Ready { l2 with rsPhase := .addr, regs := [1, 2, 3, 4] } ∧
    ([1, 2, 3, 4] : List Byte)[(0x0F : Byte).toNat / 2 % 2 ^ l2.cfg.localBits]? = some 4 := by decide

theorem witness_LaterReadEventSuppliesTheNextEntry :
    (State.Ready { l2 with rsPhase := .data, rsRdptr := 3, regs := [1, 2, 3, 4] } ∧ l2.cfg.readAutoIncrement = true ∧
      ([1, 2, 3, 4] : List Byte)[((3 : Byte).toNat + 1) % 2 ^ l2.cfg.localBits]? = some 1) ∧
    (State.Ready { noInc with rsPhase := .data, rsRdptr := 1, regs := [1, 2] } ∧ noInc.cfg.readAutoIncrement = false ∧
      ([1, 2] : List Byte)[(1 : Byte).toNat]? = some 2) := by decide

theorem witness_ExposedValueIsTheOneSupplied :
    (l2.Ready ∧ (3 : Byte).toNat < 2 ^ l2.cfg.localBits) ∧
    (State.Ready { l2 with rsPhase := .addr } ∧ (0x0F : Byte).toNat / 2 % 2 ^ l2.cfg.localBits = (3 : Byte).toNat) := by
  decide

theorem witness_SelectAndSetPendingResult :
    (ref.Ready ∧ ref.dsSel = .ch0) ∧ State.Ready { ref with dsSel := .ch1 } := by decide

theorem witness_TickTogglesAndLatches :
    (ref.Ready ∧ ref.dsPhase = .ch0) ∧ State.Ready { ref with dsPhase := .ch1 } := by decide

theorem witness_DutyIsTheDrivenChannelsOnly :
    (ref.Ready ∧ ref.dsPhase = .ch0) ∧ State.Ready { ref with dsPhase := .ch1, dsCurrent := ⟨0x10, 0x20⟩ } := by decide

theorem witness_PendingValueIsOutputWithinTwoTicks :
    (ref.Ready ∧ ref.dsPhase = .ch0) ∧ State.Ready { ref with dsPhase := .ch1 } := by decide

theorem witness_ReinitializeResetsEnginesAndQueues :
    State.Ready { q3 with rxq := rxq4, cq := [1, 2], cs := .kindP, iniState := .dataOut } := by decide

theorem witness_PowerOnStateIsLegalAndClean :
    cfgL2.wf = true ∧ Config.wf { cfgQ3 with rxMode := .sync } = false ∧ 3 < 2 ^ cfgL2.localBits := by decide

theorem witness_LegalInvariantIsKeptByEveryStep :
    ∃ t, step (ref.withFetchWord 32 0x130C0A00) = .next t ∧ (ref.withFetchWord 32 0x130C0A00).Inv :=
  ⟨_, rfl, by decide⟩

theorem witness_LegalStateAlwaysSteps : (q3.withFetchWord 32 0x24000000).legal = true := by decide

theorem witness_ConfigurationNeverChanges :
    (∃ t, exec .dTick ref = .next t) ∧ ∃ t, step (ref.withFetchWord 32 0x52000000) = .next t :=
  ⟨⟨_, rfl⟩, ⟨_, rfl⟩⟩

theorem witness_OperationAddsOneObservationOfItsKind :
    (∃ t, exec .dTick ref = .next t ∧ ref.fault = none ∧ t.fault = none) ∧
    ∃ t, exec .qDeq ref = .next t ∧ t.fault ≠ none := ⟨⟨_, rfl, by decide, by decide⟩, ⟨_, rfl, by decide⟩⟩

theorem witness_ElementsChangeOnlyByTheirWriters : ∃ t, exec (.dSetP 3) ref = .next t := ⟨_, rfl⟩

theorem witness_CommandHandlerIsNotReadWhenQueued : q2.cfg.rxMode = .queued := by decide

theorem witness_IdempotentOperationsRepeat :
    (∃ t, exec .xReinit ref = .next t) ∧ (∃ t, exec .rHas q2 = .next t) ∧ ∃ t, exec (.sExpose 1 7) ref = .next t :=
  ⟨⟨_, rfl⟩, ⟨_, rfl⟩, ⟨_, rfl⟩⟩

/-- Two REF blocks (P3, P5), the responder with the PWM handler and an exposed table, the master with a result handler. -/
def pair : TwoNode where
  m := { ref with rhSet := true }
  s := { ref with chHandler := .pwm, regs := [0x5A, 0x33] }
  link := .idle
  rx := none

theorem witness_MasterWriteReachesTheRespondersChannel :
    pair.wf = true ∧ pair.m.Ready ∧ pair.s.Ready ∧ pair.link = .idle ∧ pair.m.cfg.fieldCount = 2 ∧ pair.m.cq = [] ∧
    pair.m.iniState = .addr ∧ pair.s.cfg.rxMode = .sync ∧ pair.s.chHandler = .pwm ∧
    ((0x0C : Byte).getLsbD 0 = false ∧ addressMatches pair.s.cfg 0x0C = true ∧
      channelOperand (decodeLocal pair.s.cfg 0x0C) = some .ch0) ∧
    ((0x0E : Byte).getLsbD 0 = false ∧ addressMatches pair.s.cfg 0x0E = true ∧
      channelOperand (decodeLocal pair.s.cfg 0x0E) = some .ch1) := by decide

/-- The clean responder of the last clause, and an end that an unread RESP_TX keeps from being clean (R299 (d)): a read
event the host adds to S before the stop. -/
theorem witness_MasterWriteReachesTheRespondersChannel_clean :
    pair.m.rsPhase = .none ∧ pair.s.CleanEnd ∧
    ∃ z, TwoNode.run [(.responder, encode .sStart), (.responder, encode (.sByteR 0x0D)), (.responder, encode .sStop)] pair
      = some z ∧ z.s.CleanEnd ∧ ¬ z.NothingWaits := ⟨by decide, by decide, _, rfl, by decide, by decide⟩

/-- R299 (b): one step into a write, the end is clean for a claim that names the transaction, and for no other claim. -/
theorem test_clean_end_names_the_transaction :
    ∃ t, State.run [0x130C0A00, 0x30000000, 0x31000000] ref = some t ∧
      t.CleanEndNaming (some ⟨.dataOut, .valueP, 0x0C⟩) ∧ ¬ t.CleanEnd := ⟨_, rfl, by decide, by decide⟩

theorem witness_MasterReadReturnsTheExposedValue :
    pair.wf = true ∧ pair.m.Ready ∧ pair.s.Ready ∧ pair.link = .idle ∧ pair.m.cfg.fieldCount = 2 ∧ pair.m.cq = [] ∧
    pair.m.iniState = .addr ∧ pair.m.rhSet = true ∧ (0x0D : Byte).getLsbD 0 = true ∧
    addressMatches pair.s.cfg 0x0D = true ∧ regRead (decodeLocal pair.s.cfg 0x0D) pair.s = 0x5A ∧
    addressMatches pair.s.cfg 0x0F = true ∧ regRead (decodeLocal pair.s.cfg 0x0F) pair.s = 0x33 := by decide

end Sys2Proof.Tests
end

section
/-! The Command Queue (40_queue.md): what an append and a removal give, case by case, what `Q.ENQ` and `Q.DEQ` make of
it, and the statements O13 and O14. -/

namespace Sys2Proof.Machine

/-! ## Append and removal (R50 (a)) -/

/-- The other half is `cqAppend_of_no_room`: together they are every append. -/
theorem cqAppend_of_room {bs : List Byte} {s : State} (h : s.cq.length + bs.length ≤ s.cfg.cqCapacity) :
    cqAppend bs s = .ok { s with cq := s.cq ++ bs } :=
  if_neg (Nat.not_lt.mpr h)

theorem cqAppend_of_no_room {bs : List Byte} {s : State} (h : s.cfg.cqCapacity < s.cq.length + bs.length) :
    cqAppend bs s = .error .cqOverflow :=
  if_pos h

theorem cqRemove_of_cons {s : State} {b : Byte} {rest : List Byte} (h : s.cq = b :: rest) :
    cqRemove s = .ok (b, { s with cq := rest }) := by
  simp only [cqRemove, h]

theorem cqRemove_of_nil {s : State} (h : s.cq = []) : cqRemove s = .error .cqUnderflow := by
  simp only [cqRemove, h]

/-- R21: a ready state's queue is within its bound. -/
theorem ready_cq_le {s : State} (h : s.Ready) : s.cq.length ≤ s.cfg.cqCapacity :=
  let ⟨_, hle, _⟩ := (legal_iff s).1 (ready_legal h)
  hle

/-! ## The rules of `Q.ENQ` (R101) and `Q.DEQ` (R102) -/

theorem qEnqBody_of_room (b : Byte) {s : State} (h : s.cq.length < s.cfg.cqCapacity) :
    qEnqBody b s = .ok (.silent { s with cq := s.cq ++ [b] }) := by
  simp only [qEnqBody, cqAppend_of_room (bs := [b]) h]

theorem qEnqBody_of_full (b : Byte) {s : State} (h : s.cq.length = s.cfg.cqCapacity) :
    qEnqBody b s = .error .cqOverflow := by
  simp only [qEnqBody, (cqAppend_one_error_iff h.le).2 h]

theorem qDeqBody_of_cons {s : State} {b : Byte} {rest : List Byte} (h : s.cq = b :: rest) :
    qDeqBody s = .ok (.returning { s with cq := rest } (.byte b)) := by
  simp only [qDeqBody, cqRemove_of_cons h]

theorem qDeqBody_of_nil {s : State} (h : s.cq = []) : qDeqBody s = .error .cqUnderflow := by
  simp only [qDeqBody, cqRemove_of_nil h]

/-! ## The statements -/

/-- Settles O13: the queue of a ready state is within its bound, so one that does not hold `CQ_CAPACITY` bytes has room
for one more. -/
theorem enqueueAppendsTheByte : Obligations.EnqueueAppendsTheByte := by
  intro s b
  refine ⟨rfl, fun hs => ⟨fun hne => ?_, fun hfull => ?_⟩⟩
  · have hroom : s.cq.length < s.cfg.cqCapacity := lt_of_le_of_ne (ready_cq_le hs) hne
    exact exec_ok (i := .qEnq b) hs rfl (qEnqBody_of_room b hroom)
  · exact exec_error (i := .qEnq b) hs rfl (qEnqBody_of_full b hfull)

/-- Settles O14: `Q.DEQ` is one removal, which a head byte completes and an empty queue faults. -/
theorem dequeueReturnsTheHead : Obligations.DequeueReturnsTheHead := by
  refine ⟨rfl, fun s hs => ⟨fun b rest hq => ?_, fun hq => ?_⟩⟩
  · exact exec_ok (i := .qDeq) hs rfl (qDeqBody_of_cons hq)
  · exact exec_error (i := .qDeq) hs rfl (qDeqBody_of_nil hq)

end Sys2Proof.Machine
end

section
/-! The transmit codec (41_codec.md): when the codec is idle, what `C.AVAIL` makes of an empty queue, of an idle codec
and of one mid-command, what `C.SENT` returns, and the statements O16 and O18. -/

namespace Sys2Proof.Machine

/-! ## The idle codec (R22) -/

theorem FieldPos.idle_iff (p : FieldPos) : p.idle = true ↔ p = .noCmd ∨ p = .complete := by
  cases p <;> simp [FieldPos.idle]

/-- R22: the positions that are not idle are the mid-command ones. -/
theorem FieldPos.idle_eq_false_iff (p : FieldPos) : p.idle = false ↔ p ≠ .noCmd ∧ p ≠ .complete := by
  rw [← Bool.not_eq_true, p.idle_iff, not_or]

/-! ## The rules of `C.AVAIL` (R120) and `C.SENT` (R122) -/

theorem callAvail_of_nil {s : State} (hq : s.cq = []) : callAvail s = (false, s) := by
  simp [callAvail, State.cqEmpty, hq]

theorem callAvail_of_idle {s : State} (hq : s.cq ≠ []) (hi : s.cs.idle = true) :
    callAvail s = (true, { s with cs := .addrP }) := by
  simp [callAvail, State.cqEmpty, hq, hi]

theorem callAvail_of_midCommand {s : State} (hq : s.cq ≠ []) (hi : s.cs.idle = false) : callAvail s = (true, s) := by
  simp [callAvail, State.cqEmpty, hq, hi]

/-- `C.AVAIL` makes the state its call gives and returns that call's Boolean. -/
theorem cAvailBody_of_callAvail {s t : State} {r : Bool} (h : callAvail s = (r, t)) :
    cAvailBody s = .ok (.returning t (.bool r)) := by
  simp only [cAvailBody, h]

theorem sent_eq_decide (s : State) : s.sent = decide (s.cs = .complete) := beq_eq_decide _ _

/-! ## `C.AVAIL` and `C.SENT` at the interface -/

/-- No configuration closes `C.AVAIL` (R75), so on a ready state it completes with what its call gives. -/
theorem exec_cAvail_of_callAvail {s t : State} {r : Bool} (hs : s.Ready) (h : callAvail s = (r, t)) :
    exec .cAvail s = .next (t.observing [] (.bool r)) :=
  exec_ok (i := .cAvail) hs rfl (cAvailBody_of_callAvail h)

/-- Likewise `C.SENT`, which changes nothing. -/
theorem exec_cSent_ready {s : State} (hs : s.Ready) : exec .cSent s = .next (s.observing [] (.bool s.sent)) :=
  exec_ok (i := .cSent) hs rfl rfl

/-! ## The statements -/

/-- Settles O16: R120's three cases are the three values of the call, an empty queue, an idle codec over a non-empty
one, and a codec mid-command over a non-empty one. -/
theorem availableRearmsAnIdleCodec : Obligations.AvailableRearmsAnIdleCodec := by
  refine ⟨rfl, fun s hs => ⟨fun hempty => ?_, fun hne hidle => ?_, fun hne hno hcomplete => ?_⟩⟩
  · exact exec_cAvail_of_callAvail hs (callAvail_of_nil hempty)
  · exact exec_cAvail_of_callAvail hs (callAvail_of_idle hne (s.cs.idle_iff.2 hidle))
  · exact exec_cAvail_of_callAvail hs (callAvail_of_midCommand hne (s.cs.idle_eq_false_iff.2 ⟨hno, hcomplete⟩))

/-- Settles O18: `C.SENT` returns the codec's test for COMPLETE. -/
theorem fullySentIffComplete : Obligations.FullySentIffComplete := by
  refine ⟨rfl, fun s hs => ?_⟩
  rw [← sent_eq_decide]
  exact exec_cSent_ready hs

end Sys2Proof.Machine
end

section
/-! The Bus Initiator Engine (43_initiator.md): what `C.NEXT` gives, what `C.AVAIL` leaves over a non-empty queue, how
far the placeholder loop of PREP_IN goes, the rules of `I.ARM` and of the steps in ADDR, PREP_IN and DATA_IN case by
case, and the statements O27, O28, O30 and O31. -/

namespace Sys2Proof.Machine

open Sys2Proof.Claims

/-! ## The rule of `C.NEXT` (R121) -/

theorem callNext_of_idle {s : State} (hi : s.cs.idle = true) : callNext s = .ok (0, s) :=
  if_pos hi

theorem callNext_of_cons {s : State} {b : Byte} {rest : List Byte} (hi : s.cs.idle = false) (hq : s.cq = b :: rest) :
    callNext s = .ok (b, { s with cq := rest, cs := s.cs.advance s.cfg.fieldCount }) := by
  simp [callNext, hi, cqRemove_of_cons hq]

theorem callNext_of_nil {s : State} (hi : s.cs.idle = false) (hq : s.cq = []) : callNext s = .error .cqUnderflow := by
  simp [callNext, hi, cqRemove_of_nil hq]

/-! ## The position `C.AVAIL` leaves over a non-empty queue (R120) -/

/-- An idle position is re-armed to ADDR_P, a mid-command one stays. -/
def FieldPos.rearmed (p : FieldPos) : FieldPos := if p = .noCmd ∨ p = .complete then .addrP else p

theorem FieldPos.rearmed_of_idle {p : FieldPos} (hi : p.idle = true) : p.rearmed = .addrP :=
  if_pos (p.idle_iff.1 hi)

theorem FieldPos.rearmed_of_midCommand {p : FieldPos} (hi : p.idle = false) : p.rearmed = p :=
  if_neg (not_or.2 (p.idle_eq_false_iff.1 hi))

theorem FieldPos.rearmed_idle (p : FieldPos) : p.rearmed.idle = false := by
  cases hi : p.idle with
  | true => rw [rearmed_of_idle hi]; rfl
  | false => rw [rearmed_of_midCommand hi, hi]

/-- The two cases of `C.AVAIL` over a non-empty queue in one. -/
theorem callAvail_of_ne_nil {s : State} (hq : s.cq ≠ []) : callAvail s = (true, { s with cs := s.cs.rearmed }) := by
  cases hi : s.cs.idle with
  | true => rw [callAvail_of_idle hq hi, FieldPos.rearmed_of_idle hi]
  | false => rw [callAvail_of_midCommand hq hi, FieldPos.rearmed_of_midCommand hi]

/-! ## The placeholder loop (R164) -/

/-- R9: a ready block has one of the two frame lengths. -/
theorem ready_fieldCount {s : State} (h : s.Ready) : s.cfg.fieldCount = 2 ∨ s.cfg.fieldCount = 3 :=
  let ⟨hf, _⟩ := (Config.wf_iff s.cfg).1 (ready_wf h)
  hf

theorem FieldPos.remaining_of_idle {p : FieldPos} (hi : p.idle = true) (fieldCount : Nat) :
    p.remaining fieldCount = 0 := by
  rcases p.idle_iff.1 hi with rfl | rfl <;> rfl

/-- Each removal leaves one field fewer to come. -/
theorem FieldPos.remaining_eq_advance_add_one {fieldCount : Nat} (hf : fieldCount = 2 ∨ fieldCount = 3) {p : FieldPos}
    (hi : p.idle = false) : p.remaining fieldCount = (p.advance fieldCount).remaining fieldCount + 1 := by
  cases p with
  | noCmd | complete => cases hi
  | addrP => rcases hf with rfl | rfl <;> rfl
  | kindP | valueP => rfl

/-- On an idle codec the loop removes nothing: it skips `C.NEXT` in COMPLETE and gets the sentinel in NOCMD. -/
theorem discardPlaceholders_of_idle {s : State} (hi : s.cs.idle = true) (n : Nat) :
    discardPlaceholders n s = .ok s := by
  induction n with
  | zero => rfl
  | succ n ih => simp [discardPlaceholders, callNext_of_idle hi, ih]

/-- Mid-command the loop calls `C.NEXT`, because only COMPLETE is fully sent. -/
theorem sent_of_midCommand {s : State} (hi : s.cs.idle = false) : s.sent = false := by
  rw [sent_eq_decide]
  exact decide_eq_false (s.cs.idle_eq_false_iff.1 hi).2

theorem discardPlaceholders_succ_of_cons {s : State} {b : Byte} {rest : List Byte} (hi : s.cs.idle = false)
    (hq : s.cq = b :: rest) (n : Nat) :
    discardPlaceholders (n + 1) s =
      discardPlaceholders n { s with cq := rest, cs := s.cs.advance s.cfg.fieldCount } := by
  simp [discardPlaceholders, sent_of_midCommand hi, callNext_of_cons hi hq]

theorem discardPlaceholders_succ_of_nil {s : State} (hi : s.cs.idle = false) (hq : s.cq = []) (n : Nat) :
    discardPlaceholders (n + 1) s = .error .cqUnderflow := by
  simp [discardPlaceholders, sent_of_midCommand hi, callNext_of_nil hi hq]

/-- The bytes `n` rounds of the loop remove: the fields still to come, at most one for each round. -/
def discarded (n : Nat) (s : State) : Nat := min (s.cs.remaining s.cfg.fieldCount) n

theorem discarded_of_idle {s : State} (hi : s.cs.idle = true) (n : Nat) : discarded n s = 0 := by
  rw [discarded, FieldPos.remaining_of_idle hi, Nat.zero_min]

theorem discarded_zero (s : State) : discarded 0 s = 0 := Nat.min_zero _

theorem discarded_succ {s : State} (hf : s.cfg.fieldCount = 2 ∨ s.cfg.fieldCount = 3) (hi : s.cs.idle = false)
    (n : Nat) (rest : List Byte) :
    discarded (n + 1) s = discarded n { s with cq := rest, cs := s.cs.advance s.cfg.fieldCount } + 1 := by
  rw [discarded, FieldPos.remaining_eq_advance_add_one hf hi, Nat.add_min_add_right]
  rfl

/-- The loop over a queue that holds the bytes it removes. -/
theorem discardPlaceholders_of_enough {n : Nat} {s : State} (h : discarded n s ≤ s.cq.length)
    (hf : s.cfg.fieldCount = 2 ∨ s.cfg.fieldCount = 3) :
    discardPlaceholders n s = .ok
      { s with cq := s.cq.drop (discarded n s), cs := advanceBy s.cfg.fieldCount (discarded n s) s.cs } := by
  induction n generalizing s with
  | zero =>
    rw [discarded_zero]
    rfl
  | succ n ih =>
    cases hi : s.cs.idle with
    | true =>
      rw [discardPlaceholders_of_idle hi, discarded_of_idle hi]
      rfl
    | false =>
      cases hq : s.cq with
      | nil => simp [discarded_succ hf hi n [], hq] at h
      | cons b rest =>
        rw [discarded_succ hf hi n rest, hq] at h
        have hrest := Nat.le_of_succ_le_succ h
        rw [discardPlaceholders_succ_of_cons hi hq, ih hrest hf, discarded_succ hf hi n rest]
        rfl

/-- The loop over a queue that runs out. -/
theorem discardPlaceholders_of_short {n : Nat} {s : State} (h : s.cq.length < discarded n s)
    (hf : s.cfg.fieldCount = 2 ∨ s.cfg.fieldCount = 3) : discardPlaceholders n s = .error .cqUnderflow := by
  induction n generalizing s with
  | zero => simp [discarded_zero] at h
  | succ n ih =>
    cases hi : s.cs.idle with
    | true => simp [discarded_of_idle hi] at h
    | false =>
      cases hq : s.cq with
      | nil => exact discardPlaceholders_succ_of_nil hi hq n
      | cons b rest =>
        rw [discarded_succ hf hi n rest, hq] at h
        rw [discardPlaceholders_succ_of_cons hi hq]
        exact ih (Nat.lt_of_succ_lt_succ h) hf

/-! ## The rule of `I.ARM` (R160) -/

theorem IniState.armable_iff (i : IniState) : i.armable = true ↔ i = .addr ∨ i = .done := by
  cases i <;> simp [IniState.armable]

theorem iArmBody_of_armable {s : State} (h : s.iniState.armable = true) :
    iArmBody s = .ok (.emitting { s with iniState := .addr } [.busStart]) :=
  if_pos h

theorem iArmBody_of_not_armable {s : State} (h : ¬ s.iniState.armable = true) : iArmBody s = .error .armBusy :=
  if_neg h

/-! ## The rule of `I.STEP` in ADDR (R162), PREP_IN (R164) and DATA_IN (R165) -/

theorem iStepBody_of_addr {s : State} (h : s.iniState = .addr) (rx : Byte) : iStepBody rx s = stepAddr s := by
  simp only [iStepBody, h]

theorem iStepBody_of_prepIn {s : State} (h : s.iniState = .prepIn) (rx : Byte) : iStepBody rx s = stepPrepIn s := by
  simp only [iStepBody, h]

theorem iStepBody_of_dataIn {s : State} (h : s.iniState = .dataIn) (rx : Byte) : iStepBody rx s = stepDataIn rx s := by
  simp only [iStepBody, h]

theorem stepAddr_of_nil {s : State} (hq : s.cq = []) : stepAddr s = .ok (.silent s) := by
  simp only [stepAddr, callAvail_of_nil hq]

/-- `C.AVAIL` leaves the codec mid-command, so `C.NEXT` takes the head byte. -/
theorem stepAddr_of_cons {s : State} {a : Byte} {rest : List Byte} (hq : s.cq = a :: rest) :
    stepAddr s = .ok (.emitting
      { s with cq := rest, cs := s.cs.rearmed.advance s.cfg.fieldCount, iniAddr := a,
               iniState := if isReadAddress a then .prepIn else .dataOut } [.busTx a]) := by
  have hne : s.cq ≠ [] := by simp [hq]
  have hnext := callNext_of_cons (s := { s with cs := s.cs.rearmed }) s.cs.rearmed_idle hq
  simp only [stepAddr, callAvail_of_ne_nil hne, hnext]

theorem stepPrepIn_of_enough {s : State} (hf : s.cfg.fieldCount = 2 ∨ s.cfg.fieldCount = 3)
    (h : placeholders s ≤ s.cq.length) :
    stepPrepIn s = .ok (.emitting
      { s with cq := s.cq.drop (placeholders s), cs := advanceBy s.cfg.fieldCount (placeholders s) s.cs,
               iniState := .dataIn } [.busRcen]) := by
  simp only [stepPrepIn, discardPlaceholders_of_enough (n := s.cfg.fieldCount - 1) h hf]
  rfl

theorem stepPrepIn_of_short {s : State} (hf : s.cfg.fieldCount = 2 ∨ s.cfg.fieldCount = 3)
    (h : s.cq.length < placeholders s) : stepPrepIn s = .error .cqUnderflow := by
  simp only [stepPrepIn, discardPlaceholders_of_short (n := s.cfg.fieldCount - 1) h hf]

theorem stepDataIn_of_handler {s : State} (h : s.rhSet = true) (rx : Byte) :
    stepDataIn rx s = .ok (.emitting { s with iniState := .stop } [.result s.iniAddr rx, .busNack]) :=
  if_pos h

theorem stepDataIn_of_no_handler {s : State} (h : s.rhSet = false) (rx : Byte) :
    stepDataIn rx s = .error .noResultHandler := by
  simp [stepDataIn, h]

/-! ## The statements -/

/-- Settles O27: R160's two cases are the states that can be armed and the others. -/
theorem armStartsFromAddrOrDoneOnly : Obligations.ArmStartsFromAddrOrDoneOnly := by
  refine ⟨rfl, fun s hs => ⟨fun hrest => ?_, fun haddr hdone => ?_⟩⟩
  · exact exec_ok (i := .iArm) hs rfl (iArmBody_of_armable (s.iniState.armable_iff.2 hrest))
  · have hbusy : ¬ s.iniState.armable = true := by simp [IniState.armable_iff, haddr, hdone]
    exact exec_error (i := .iArm) hs rfl (iArmBody_of_not_armable hbusy)

/-- Settles O28: an empty queue leaves the step nothing to do, and over a non-empty one `C.AVAIL` leaves the codec
mid-command, so that `C.NEXT` takes the head byte. -/
theorem addressStepPlacesTheAddressByte : Obligations.AddressStepPlacesTheAddressByte := by
  intro s rx hs haddr
  have hstep := iStepBody_of_addr haddr rx
  refine ⟨fun hempty => ?_, fun a rest hq => ?_⟩
  · exact exec_ok (i := .iStep rx) hs rfl (hstep.trans (stepAddr_of_nil hempty))
  · exact exec_ok (i := .iStep rx) hs rfl (hstep.trans (stepAddr_of_cons hq))

/-- Settles O30, by induction on the rounds of R164's loop: each removes one byte and leaves one field fewer to come. -/
theorem prepareInStepDiscardsThePlaceholders : Obligations.PrepareInStepDiscardsThePlaceholders := by
  intro s rx hs hprep
  have hstep := iStepBody_of_prepIn hprep rx
  have hf := ready_fieldCount hs
  refine ⟨fun henough => ?_, fun hshort => ?_⟩
  · exact exec_ok (i := .iStep rx) hs rfl (hstep.trans (stepPrepIn_of_enough hf henough))
  · exact exec_error (i := .iStep rx) hs rfl (hstep.trans (stepPrepIn_of_short hf hshort))

/-- Settles O31: the step reads `rh_set` and nothing else to choose between its two cases. -/
theorem dataInStepDeliversTheResult : Obligations.DataInStepDeliversTheResult := by
  intro s rx hs hdata
  have hstep := iStepBody_of_dataIn hdata rx
  refine ⟨fun hset => ?_, fun hunset => ?_⟩
  · exact exec_ok (i := .iStep rx) hs rfl (hstep.trans (stepDataIn_of_handler hset rx))
  · exact exec_error (i := .iStep rx) hs rfl (hstep.trans (stepDataIn_of_no_handler hunset rx))

end Sys2Proof.Machine
end

section
/-! The Bus Responder Engine (44_responder.md): the rule of a byte event in each transaction phase, what a
write-direction byte does in each receive path and with each command handler, which table entry a
read-direction byte supplies, and the statements O36, O38, O39, O40, O41 and O42. -/

namespace Sys2Proof.Machine

/-! ## The rule of a byte event in each phase (R182, R185, R193) -/

theorem sByteWBody_of_none {s : State} (h : s.rsPhase = .none) (b : Byte) : sByteWBody b s = .ok (.silent s) := by
  simp only [sByteWBody, noStartSeen, h]

theorem sByteWBody_of_addr {s : State} (h : s.rsPhase = .addr) (b : Byte) : sByteWBody b s = writeAddress b s := by
  simp only [sByteWBody, h]

theorem sByteWBody_of_data {s : State} (h : s.rsPhase = .data) (b : Byte) : sByteWBody b s = writeData b s := by
  simp only [sByteWBody, h]

theorem sByteRBody_of_none {s : State} (h : s.rsPhase = .none) (b : Byte) : sByteRBody b s = .ok (.silent s) := by
  simp only [sByteRBody, noStartSeen, h]

theorem sByteRBody_of_addr {s : State} (h : s.rsPhase = .addr) (b : Byte) : sByteRBody b s = readAddress b s := by
  simp only [sByteRBody, h]

/-- State 4 does not read the operand byte. -/
theorem sByteRBody_of_data {s : State} (h : s.rsPhase = .data) (b : Byte) : sByteRBody b s = readData s := by
  simp only [sByteRBody, h]

/-! ## The PWM command handler (R191) -/

theorem pwmHandler_zero (v : Byte) (s : State) :
    pwmHandler 0 v s = { s with dsSel := .ch0, dsPending := ⟨v, s.dsPending.ch1⟩ } := rfl

theorem pwmHandler_one (v : Byte) (s : State) :
    pwmHandler 1 v s = { s with dsSel := .ch1, dsPending := ⟨s.dsPending.ch0, v⟩ } := rfl

theorem channelOperand_of_one_lt {l : Byte} (h : 1 < l.toNat) : channelOperand l = none := by
  rw [← Option.not_isSome_iff_eq_none, channelOperand_isSome, decide_eq_true_iff]
  exact Nat.not_le.2 h

/-- The local sub-addresses that are no channel have no effect on the Duty Scheduler. -/
theorem pwmHandler_of_one_lt {l : Byte} (h : 1 < l.toNat) (v : Byte) (s : State) : pwmHandler l v s = s := by
  simp only [pwmHandler, channelOperand_of_one_lt h]

/-! ## The write direction (R183, R184) -/

theorem writeAddress_of_sync {s : State} (h : s.cfg.rxMode = .sync) (b : Byte) :
    writeAddress b s = .ok (.silent { s with rsDir := .write, rsLocal := decodeLocal s.cfg b, rsPhase := .data }) := by
  simp only [writeAddress, h]

theorem writeAddress_of_queued {s : State} (h : s.cfg.rxMode = .queued) (b : Byte) :
    writeAddress b s = .ok (.silent (callOnAddr (decodeLocal s.cfg b)
      { s with rsDir := .write, rsLocal := decodeLocal s.cfg b, rsPhase := .data })) := by
  simp only [writeAddress, h]

theorem writeData_of_no_handler {s : State} (hm : s.cfg.rxMode = .sync) (hh : s.chHandler = .none) (b : Byte) :
    writeData b s = .error .noCmdHandler := by
  simp only [writeData, hm, hh]

theorem writeData_of_external {s : State} (hm : s.cfg.rxMode = .sync) (hh : s.chHandler = .external) (b : Byte) :
    writeData b s = .ok (.emitting s [.cmd s.rsLocal b]) := by
  simp only [writeData, hm, hh]

theorem writeData_of_pwm {s : State} {l : Byte} (hm : s.cfg.rxMode = .sync) (hh : s.chHandler = .pwm)
    (hl : s.rsLocal = l) (b : Byte) : writeData b s = .ok (.emitting (pwmHandler l b s) [.cmd l b]) := by
  simp only [writeData, hm, hh, hl]

theorem writeData_of_queued {s : State} (hm : s.cfg.rxMode = .queued) (b : Byte) :
    writeData b s = .ok (.silent (callOnData b s)) := by
  simp only [writeData, hm]

/-! ## The read direction (R186, R187) -/

/-- R9, R10: the table has 2 or 4 entries, so a byte can index it. -/
theorem Config.regCount_le {c : Config} (h : c.wf = true) : c.regCount ≤ 4 := by
  obtain ⟨-, hbits, -⟩ := (Config.wf_iff c).1 h
  rcases hbits with hb | hb <;> simp [Config.regCount, hb]

/-- R79: the local sub-address as the byte of `(r >> 1)` modulo `REG_COUNT`. -/
theorem decodeLocal_eq_ofNat {c : Config} (h : c.wf = true) (r : Byte) :
    decodeLocal c r = BitVec.ofNat 8 (r.toNat / 2 % c.regCount) := by
  rw [← decodeLocal_toNat h r, BitVec.ofNat_toNat, BitVec.setWidth_eq]

theorem nextEntry_of_increment {s : State} (h : s.cfg.readAutoIncrement = true) :
    nextEntry s = BitVec.ofNat 8 ((s.rsRdptr.toNat + 1) % s.cfg.regCount) := if_pos h

theorem nextEntry_of_no_increment {s : State} (h : s.cfg.readAutoIncrement = false) : nextEntry s = s.rsRdptr := by
  simp [nextEntry, h]

/-- The byte of a number below `REG_COUNT` reads the entry of that number. -/
theorem regRead_ofNat {s : State} {n : Nat} {v : Byte} (hw : s.cfg.wf = true) (hn : n < s.cfg.regCount)
    (hv : s.regs[n]? = some v) : regRead (BitVec.ofNat 8 n) s = v := by
  have hbyte : (BitVec.ofNat 8 n).toNat = n := by
    have := Config.regCount_le hw
    exact Nat.mod_eq_of_lt (by omega)
  simp [regRead, hbyte, hv]

theorem readAddress_of_entry {s : State} {b v : Byte} (hw : s.cfg.wf = true)
    (hv : s.regs[b.toNat / 2 % s.cfg.regCount]? = some v) :
    readAddress b s = .ok (.emitting
      { s with rsDir := .read, rsLocal := BitVec.ofNat 8 (b.toNat / 2 % s.cfg.regCount),
               rsRdptr := BitVec.ofNat 8 (b.toNat / 2 % s.cfg.regCount), rsPhase := .data } [.respTx v]) := by
  have hl : b.toNat / 2 % s.cfg.regCount < s.cfg.regCount := Nat.mod_lt _ (Nat.two_pow_pos _)
  simp only [readAddress, decodeLocal_eq_ofNat hw, regRead_ofNat hw hl hv]

theorem readData_of_increment {s : State} {v : Byte} (hw : s.cfg.wf = true) (hi : s.cfg.readAutoIncrement = true)
    (hv : s.regs[(s.rsRdptr.toNat + 1) % s.cfg.regCount]? = some v) :
    readData s = .ok (.emitting
      { s with rsRdptr := BitVec.ofNat 8 ((s.rsRdptr.toNat + 1) % s.cfg.regCount) } [.respTx v]) := by
  have hl : (s.rsRdptr.toNat + 1) % s.cfg.regCount < s.cfg.regCount := Nat.mod_lt _ (Nat.two_pow_pos _)
  simp only [readData, nextEntry_of_increment hi, regRead_ofNat hw hl hv]

theorem readData_of_no_increment {s : State} {v : Byte} (hi : s.cfg.readAutoIncrement = false)
    (hv : s.regs[s.rsRdptr.toNat]? = some v) : readData s = .ok (.emitting s [.respTx v]) := by
  simp [readData, nextEntry_of_no_increment hi, regRead, hv]

/-! ## The statements -/

/-- Settles O36: R180's rule reads nothing of the state it restarts. -/
theorem startRestartsTheTracking : Obligations.StartRestartsTheTracking :=
  ⟨rfl, fun _ hs => exec_ok (i := .sStart) hs rfl rfl⟩

/-- Settles O38: outside a transaction both byte events have the one rule of R188. -/
theorem byteEventWithoutStartHasNoEffect : Obligations.ByteEventWithoutStartHasNoEffect := by
  intro s b hs hnone
  constructor
  · exact exec_ok (i := .sByteW b) hs rfl (sByteWBody_of_none hnone b)
  · exact exec_ok (i := .sByteR b) hs rfl (sByteRBody_of_none hnone b)

/-- Settles O39: the two receive paths differ in the staging command that R.ONADDR opens. -/
theorem writeAddressByteRecordsTheSubAddress : Obligations.WriteAddressByteRecordsTheSubAddress := by
  intro s b hs haddr
  have hbody := sByteWBody_of_addr haddr b
  refine ⟨fun hsync => ?_, fun hqueued => ?_⟩
  · exact exec_ok (i := .sByteW b) hs rfl (hbody.trans (writeAddress_of_sync hsync b))
  · exact exec_ok (i := .sByteW b) hs rfl (hbody.trans (writeAddress_of_queued hqueued b))

/-- Settles O40: the handler kind chooses in SYNC mode, and for the PWM handler the local sub-address. -/
theorem writeDataByteIsForwarded : Obligations.WriteDataByteIsForwarded := by
  intro s b hs hdata
  have hbody := sByteWBody_of_data hdata b
  have hpwm {l : Byte} (hsync : s.cfg.rxMode = .sync) (hh : s.chHandler = .pwm) (hl : s.rsLocal = l) :
      exec (.sByteW b) s = .next ((pwmHandler l b s).observing [.cmd l b] .none) :=
    exec_ok (i := .sByteW b) hs rfl (hbody.trans (writeData_of_pwm hsync hh hl b))
  refine ⟨fun hsync hh => ?_, fun hsync hh => ?_, fun hsync hh h0 => ?_, fun hsync hh h1 => ?_,
    fun hsync hh hlt => ?_, fun hqueued => ?_⟩
  · exact exec_error (i := .sByteW b) hs rfl (hbody.trans (writeData_of_no_handler hsync hh b))
  · exact exec_ok (i := .sByteW b) hs rfl (hbody.trans (writeData_of_external hsync hh b))
  · rw [hpwm hsync hh h0, pwmHandler_zero]
  · rw [hpwm hsync hh h1, pwmHandler_one]
  · rw [hpwm hsync hh rfl, pwmHandler_of_one_lt hlt]
  · exact exec_ok (i := .sByteW b) hs rfl (hbody.trans (writeData_of_queued hqueued b))

/-- Settles O41: the sub-address of R79 is below `REG_COUNT`, so it is the number of the entry read. -/
theorem readAddressByteSuppliesItsEntry : Obligations.ReadAddressByteSuppliesItsEntry := by
  intro s b v hs haddr hv
  have hbody := sByteRBody_of_addr haddr b
  exact exec_ok (i := .sByteR b) hs rfl (hbody.trans (readAddress_of_entry (ready_wf hs) hv))

/-- Settles O42: the parameter chooses between the next entry, reduced below `REG_COUNT`, and the one supplied last. -/
theorem laterReadEventSuppliesTheNextEntry : Obligations.LaterReadEventSuppliesTheNextEntry := by
  intro s b v hs hdata
  have hbody := sByteRBody_of_data hdata b
  refine ⟨fun hinc hv => ?_, fun hno hv => ?_⟩
  · exact exec_ok (i := .sByteR b) hs rfl (hbody.trans (readData_of_increment (ready_wf hs) hinc hv))
  · exact exec_ok (i := .sByteR b) hs rfl (hbody.trans (readData_of_no_increment hno hv))

end Sys2Proof.Machine
end

section
/-! The Duty Store (45_duty.md): what `D.TICK` makes of each of the two phases, and the statement O45. -/

namespace Sys2Proof.Machine

/-! ## The rule of `D.TICK` (R202) -/

/-- A tick while channel 0 drives hands the period to channel 1. -/
theorem dTickBody_of_ch0 {s : State} (h : s.dsPhase = .ch0) :
    dTickBody s = .ok (.returning { s with dsPhase := .ch1, dsCurrent := s.dsPending } (.bool true)) := by
  simp only [dTickBody, h, Channel.other, Channel.isOne]

/-- With `dTickBody_of_ch0` these are every tick. -/
theorem dTickBody_of_ch1 {s : State} (h : s.dsPhase = .ch1) :
    dTickBody s = .ok (.returning { s with dsPhase := .ch0, dsCurrent := s.dsPending } (.bool false)) := by
  simp only [dTickBody, h, Channel.other, Channel.isOne]

/-! ## The statement -/

/-- Settles O45: no configuration closes `D.TICK` (R75), so on a ready state it completes with the rule of its phase. -/
theorem tickTogglesAndLatches : Obligations.TickTogglesAndLatches := by
  refine ⟨rfl, fun s hs => ⟨fun h0 => ?_, fun h1 => ?_⟩⟩
  · exact exec_ok (i := .dTick) hs rfl (dTickBody_of_ch0 h0)
  · exact exec_ok (i := .dTick) hs rfl (dTickBody_of_ch1 h1)

end Sys2Proof.Machine
end

section
/-! Faults (60_exceptions.md): a word that decodes is the word of its instruction, every issued word is one attempt at
the interface whose completion keeps the fault record, and the statements O7 and O8. -/

namespace Sys2Proof

/-! ## The word of a decoded instruction (R70 to R74) -/

/-- The instructions that a format makes have the word of opcode `op` with the format's operands in their places and 0
in the reserved ones (R72). -/
def Format.Encodes (op : Byte) : Format → Prop
  | .op0 i => encode i = mkWord op 0 0 0
  | .op1 mk => ∀ a, encode (mk a) = mkWord op a 0 0
  | .op2 mk => ∀ a b, encode (mk a b) = mkWord op a b 0
  | .op3 mk => ∀ a b c, encode (mk a b c) = mkWord op a b c

/-- The opcode column of the map is that of the instructions (R73). -/
theorem opcodeMap_encodes : ∀ row ∈ opcodeMap, row.format.Encodes row.opcode := by
  simp [opcodeMap, transmitRows, receiveAndInitiatorRows, responderAndDutyRows, Format.Encodes, encode, Instr.opcode,
    Instr.operands]

/-- What a format reads from a word has that word as its own: the reserved bytes it did not read are 0. -/
theorem Format.encode_of_read {f : Format} {w : Word} {i : Instr} (hf : f.Encodes (opcodeField w))
    (h : f.read w = some i) : encode i = w := by
  refine Eq.trans ?_ (mkWord_fields w)
  cases f with
  | op0 j =>
    obtain ⟨⟨hA, hB, hC⟩, ⟨⟩⟩ := Option.ite_none_right_eq_some.1 h
    rw [hA, hB, hC]; exact hf
  | op1 mk =>
    obtain ⟨⟨hB, hC⟩, ⟨⟩⟩ := Option.ite_none_right_eq_some.1 h
    rw [hB, hC]; exact hf _
  | op2 mk =>
    obtain ⟨hC, ⟨⟩⟩ := Option.ite_none_right_eq_some.1 h
    rw [hC]; exact hf _ _
  | op3 mk =>
    obtain ⟨⟩ := h
    exact hf _ _ _

theorem encode_of_decode {w : Word} {i : Instr} (h : decode w = .ok i) : encode i = w := by
  obtain ⟨row, hmem, hop, hread⟩ := decode_ok h
  exact Format.encode_of_read (hop ▸ opcodeMap_encodes row hmem) hread

end Sys2Proof

namespace Sys2Proof.Machine

/-! ## Every operation and every issued word is one attempt at the interface (R77) -/

/-- Steps 3 to 5 of R77: the mode gate, the operand range, the rule. -/
def checkedRule (i : Instr) (s : State) : Attempt := if i.wf s.cfg then bodyOf i s else .error .illegalOp

theorem exec_eq_atInterface (i : Instr) (s : State) : exec i s = atInterface (encode i) (checkedRule i) s :=
  exec_eq_perform i s

/-- Steps 2 to 5 of R77: the attempt that an issued word stands for. -/
def wordRule (w : Word) : State → Attempt :=
  match decode w with
  | .ok i => checkedRule i
  | .error _ => fun _ => .error .illegalOp

/-- `exec` would record the word of the decoded operation; by `encode_of_decode` that is the word the step took. -/
theorem step_eq_atInterface {s : State} {w : Word} {rest : List Word} (h : s.ops = w :: rest) :
    step s = atInterface w (wordRule w) { s with ops := rest } := by
  simp only [step, h, wordRule]
  cases hd : decode w with
  | ok i => simp only [exec_eq_atInterface, encode_of_decode hd]
  | error e => rfl

/-! ## A completed attempt keeps the fault record (R240) -/

theorem checkedRule_fault {i : Instr} {s : State} {e : Effect} (h : checkedRule i s = .ok e) : e.st.fault = s.fault := by
  unfold checkedRule at h
  split at h
  · obtain ⟨hfault, _⟩ := body_frame h
    exact hfault
  · cases h

theorem wordRule_fault {w : Word} {s : State} {e : Effect} (h : wordRule w s = .ok e) : e.st.fault = s.fault := by
  cases hd : decode w with
  | ok i =>
    rw [wordRule, hd] at h
    exact checkedRule_fault h
  | error e =>
    rw [wordRule, hd] at h
    cases h

/-- R242: when completing keeps the fault record, a fault is recorded only by taking one over the state before. -/
theorem atInterface_faulting {w : Word} {f : State → Attempt} {s t : State}
    (hkeep : ∀ e, f s = .ok e → e.st.fault = s.fault) (h : atInterface w f s = .next t) (hs : s.fault = none)
    (ht : t.fault ≠ none) : ∃ c, t = s.raise c w := by
  obtain ⟨-, ⟨-, rfl⟩ | ⟨-, e, he, rfl⟩ | ⟨-, c, -, rfl⟩⟩ := atInterface_next h
  · exact absurd hs ht
  · exact absurd ((hkeep e he).trans hs) ht
  · exact ⟨c, rfl⟩

/-! ## The statements -/

/-- Settles O7: the interface asks for a recorded fault before it attempts anything, and R299 (a) for none at a clean
end. -/
theorem faultedBlockIsQuiescent : Obligations.FaultedBlockIsQuiescent := by
  refine ⟨fun s f hl hf => ?_, por_fault⟩
  have hsome : s.fault.isSome = true := Option.isSome_of_eq_some hf
  refine ⟨fun i => ?_, fun w rest hops => ?_, fun named ⟨hnone, _⟩ => ?_⟩
  · rw [exec_eq_atInterface]
    exact atInterface_faulted hl hsome _ _
  · rw [step_eq_atInterface hops]
    exact atInterface_faulted (s := { s with ops := rest }) hl hsome _ _
  · exact absurd (hf.symm.trans hnone) (Option.some_ne_none f)

/-- Settles O8: operation and issued word are attempts at the interface, and `State.raise` writes `fault` alone. -/
theorem faultingOperationChangesOnlyFault : Obligations.FaultingOperationChangesOnlyFault := by
  refine ⟨fun i s t hexec => ?_, fun s t w rest hops hstep => ?_⟩
  · rw [exec_eq_atInterface] at hexec
    exact atInterface_faulting (fun _ => checkedRule_fault) hexec
  · rw [step_eq_atInterface hops] at hstep
    exact atInterface_faulting (fun _ => wordRule_fault) hstep

end Sys2Proof.Machine
end

section
/-! The opcode map (30_encoding.md R70 to R74): a word decodes to what a row of its opcode reads from it, every
instruction has such a row, the words a row accepts are those under its mask, and the statements O3, O4, O5,
O6 and O60. -/

namespace Sys2Proof

/-! ## Decoding is reading a row of the word's opcode (R74) -/

/-- The converse of `decode_ok`: opcodes are distinct, so the row found by opcode is the row given. -/
theorem decode_of_row {w : Word} {i : Instr} {row : OpcodeRow} (hmem : row ∈ opcodeMap)
    (hop : row.opcode = opcodeField w) (hread : row.format.read w = some i) : decode w = .ok i := by
  have hnodup : (opcodeMap.map OpcodeRow.opcode).Nodup := List.pairwise_map.2 opcodeMap_distinct
  have hfind : opcodeMap.find? (fun r => r.opcode == opcodeField w) = some row := by
    cases hf : opcodeMap.find? (fun r => r.opcode == opcodeField w) with
    | none => simpa [hop] using List.find?_eq_none.1 hf row hmem
    | some r =>
      have hr : r.opcode = row.opcode := by simpa [hop] using List.find?_some hf
      rw [List.inj_on_of_nodup_map hnodup (List.mem_of_find?_eq_some hf) hmem hr]
  simp only [decode, hfind, hread]

/-- R73: the row of every instruction reads it back from its word. -/
theorem exists_row_of_instr (i : Instr) :
    ∃ row ∈ opcodeMap, row.opcode = opcodeField (encode i) ∧ row.format.read (encode i) = some i := by
  cases i <;>
    simp [opcodeMap, transmitRows, receiveAndInitiatorRows, responderAndDutyRows, Format.read, encode, Instr.opcode,
      Instr.operands]

theorem decode_encode (i : Instr) : decode (encode i) = .ok i := by
  obtain ⟨row, hmem, hop, hread⟩ := exists_row_of_instr i
  exact decode_of_row hmem hop hread

/-! ## The mask of a row (R71, R72) -/

theorem mkWord_and (op a b c op' a' b' c' : Byte) :
    mkWord op a b c &&& mkWord op' a' b' c' = mkWord (op &&& op') (a &&& a') (b &&& b') (c &&& c') :=
  BitVec.and_append.trans (congrArg (· ++ _) (BitVec.and_append.trans (congrArg (· ++ _) BitVec.and_append)))

theorem mkWord_inj {op a b c op' a' b' c' : Byte} :
    mkWord op a b c = mkWord op' a' b' c' ↔ op = op' ∧ a = a' ∧ b = b' ∧ c = c' := by
  refine ⟨fun h => ?_, fun ⟨hop, ha, hb, hc⟩ => by rw [hop, ha, hb, hc]⟩
  exact ⟨by simpa using congrArg opcodeField h, by simpa using congrArg fieldA h, by simpa using congrArg fieldB h,
    by simpa using congrArg fieldC h⟩

/-- The mask of a format: the opcode and the reserved bytes. -/
def Format.mask : Format → Word
  | .op0 _ => mkWord 0xFF 0xFF 0xFF 0xFF
  | .op1 _ => mkWord 0xFF 0 0xFF 0xFF
  | .op2 _ => mkWord 0xFF 0 0 0xFF
  | .op3 _ => mkWord 0xFF 0 0 0

/-- The opcode table has the match and mask of every row of the opcode map. -/
theorem opcodeRows_eq_map :
    Claims.opcodeRows = opcodeMap.map fun row => (mkWord row.opcode 0 0 0, row.format.mask) := rfl

/-- A row reads an instruction from the words that have its match under its mask. -/
theorem Format.and_mask_iff (f : Format) (op : Byte) (w : Word) :
    w &&& f.mask = mkWord op 0 0 0 ↔ op = opcodeField w ∧ ∃ i, f.read w = some i := by
  conv_lhs => rw [← mkWord_fields w]
  have hones (b : Byte) : b &&& 255#8 = b := BitVec.and_allOnes
  cases f <;> simp [Format.mask, Format.read, mkWord_and, mkWord_inj, hones, eq_comm]

theorem decode_ok_iff_mask (w : Word) :
    (∃ i, decode w = .ok i) ↔ ∃ row ∈ opcodeMap, w &&& row.format.mask = mkWord row.opcode 0 0 0 := by
  simp only [Format.and_mask_iff]
  constructor
  · rintro ⟨i, hi⟩
    obtain ⟨row, hmem, hop, hread⟩ := decode_ok hi
    exact ⟨row, hmem, hop, i, hread⟩
  · rintro ⟨row, hmem, hop, i, hread⟩
    exact ⟨i, decode_of_row hmem hop hread⟩

/-! ## The statements -/

/-- Settles O4: the row of an instruction reads it back from its word, and no other row has that opcode. -/
theorem decodeOfEncodeIsTheInstruction : Obligations.DecodeOfEncodeIsTheInstruction := decode_encode

/-- Settles O5: the row read all bytes its format uses, and found 0 in the others. -/
theorem decodedWordIsTheInstructionsWord : Obligations.DecodedWordIsTheInstructionsWord := fun _ _ => encode_of_decode

/-- Settles O6: the opcode table has one row for each row of the opcode map, whose mask leaves the operands out. -/
theorem decodeAcceptsExactlyTheOpcodeTable : Obligations.DecodeAcceptsExactlyTheOpcodeTable := by
  intro w
  rw [decode_ok_iff_mask, opcodeRows_eq_map]
  simp only [List.mem_map, exists_exists_and_eq_and]

/-- Settles O3: the words of the vectors, evaluated. -/
theorem vectorWordsDecodeAsWritten : Obligations.VectorWordsDecodeAsWritten := by
  unfold Obligations.VectorWordsDecodeAsWritten
  decide

/-- Settles O60: the expansions are made of the rows' own words; the example line is evaluated. -/
theorem assemblerWritesTheOperationWords : Obligations.AssemblerWritesTheOperationWords :=
  ⟨by decide, fun _ _ _ _ => ⟨rfl, rfl, rfl, rfl, rfl, rfl, rfl⟩⟩

end Sys2Proof
end

section
/-! The interface (30_encoding.md R74 to R77): everything an operation and a step can do, the operations a
configuration or an operand range refuses, and the statements O1, O2, O9 and O10. -/

namespace Sys2Proof.Machine

/-! ## Operations -/

/-- A decoded operation that the configuration or the operand range does not admit (R75, R76). -/
theorem exec_illegal {i : Instr} {s : State} (h : s.Ready) (hi : i.wf s.cfg = false) :
    exec i s = .next (s.raise .illegalOp (encode i)) := by
  rw [exec_eq_perform, perform_illegal h hi]

/-- Everything an operation can lead to: quiescence (R243), completion of its rule, a fault of its rule, or
ILLEGAL_OP. -/
theorem exec_next {i : Instr} {s t : State} (h : exec i s = .next t) :
    s.legal = true ∧
      ((s.fault.isSome = true ∧ t = s) ∨
       (s.fault = none ∧ i.wf s.cfg = true ∧ ∃ e, bodyOf i s = .ok e ∧ t = e.commit) ∨
       (s.fault = none ∧ i.wf s.cfg = true ∧ ∃ c, bodyOf i s = .error c ∧ t = s.raise c (encode i)) ∨
       (s.fault = none ∧ i.wf s.cfg = false ∧ t = s.raise .illegalOp (encode i))) := by
  rw [exec_eq_perform] at h
  exact perform_next h

/-- An operation that leaves no fault completed its rule. -/
theorem exec_completed {i : Instr} {s t : State} (h : exec i s = .next t) (hs : s.fault = none) (ht : t.fault = none) :
    i.wf s.cfg = true ∧ ∃ e, bodyOf i s = .ok e ∧ t = e.commit := by
  obtain ⟨-, ⟨hf, -⟩ | ⟨-, hw, he⟩ | ⟨-, -, c, -, rfl⟩ | ⟨-, -, rfl⟩⟩ := exec_next h
  · simp [hs] at hf
  · exact ⟨hw, he⟩
  · cases ht
  · cases ht

/-- An operation that records a fault either met a fault of its rule or is not admitted. -/
theorem exec_faulted {i : Instr} {s t : State} {f : FaultRecord} (h : exec i s = .next t) (hs : s.fault = none)
    (ht : t.fault = some f) :
    t = s.raise f.code (encode i) ∧
      ((i.wf s.cfg = true ∧ bodyOf i s = .error f.code) ∨ (i.wf s.cfg = false ∧ f.code = .illegalOp)) := by
  obtain ⟨-, ⟨hf, -⟩ | ⟨-, -, e, he, rfl⟩ | ⟨-, hw, c, hc, rfl⟩ | ⟨-, hw, rfl⟩⟩ := exec_next h
  · simp [hs] at hf
  · obtain ⟨hkeep, -⟩ := body_frame he
    rw [commit_fault, hkeep, hs] at ht
    cases ht
  · cases ht
    exact ⟨rfl, .inl ⟨hw, hc⟩⟩
  · cases ht
    exact ⟨rfl, .inr ⟨hw, rfl⟩⟩

/-- R243: an operation on a faulted block changes nothing. -/
theorem exec_of_fault {s : State} (hl : s.legal = true) (hf : s.fault.isSome = true) (i : Instr) :
    exec i s = .next s := by
  rw [exec_eq_atInterface]
  exact atInterface_faulted hl hf _ _

/-! ## Steps -/

theorem step_of_no_word {s : State} (h : s.ops = []) : step s = .next s := by
  simp only [step, h]

theorem step_of_decode {s : State} {w : Word} {rest : List Word} {i : Instr} (h : s.ops = w :: rest)
    (hd : decode w = .ok i) : step s = exec i { s with ops := rest } := by
  simp only [step, h, hd]

theorem step_of_illegal {s : State} {w : Word} {rest : List Word} {e : DecodeError} (h : s.ops = w :: rest)
    (hd : decode w = .error e) : step s = illegalWord w { s with ops := rest } := by
  simp only [step, h, hd]

/-- R74: everything an illegal word can lead to. -/
theorem illegalWord_next {w : Word} {s t : State} (h : illegalWord w s = .next t) :
    t = s ∨ t = s.raise .illegalOp w := by
  obtain ⟨-, ⟨-, ht⟩ | ⟨-, e, he, -⟩ | ⟨-, c, hc, ht⟩⟩ := atInterface_next h
  · exact .inl ht
  · cases he
  · cases hc
    exact .inr ht

/-- Everything a step can do: wait, perform the oldest word's operation, or meet an illegal word. -/
theorem step_next {s t : State} (h : step s = .next t) :
    (s.ops = [] ∧ t = s) ∨ ∃ w rest, s.ops = w :: rest ∧
      ((∃ i, exec i { s with ops := rest } = .next t) ∨
        t = { s with ops := rest } ∨ t = State.raise .illegalOp w { s with ops := rest }) := by
  cases hops : s.ops with
  | nil =>
    rw [step_of_no_word hops] at h
    cases h
    exact .inl ⟨rfl, rfl⟩
  | cons w rest =>
    refine .inr ⟨w, rest, rfl, ?_⟩
    cases hd : decode w with
    | ok i => exact .inl ⟨i, by rwa [step_of_decode hops hd] at h⟩
    | error e =>
      rw [step_of_illegal hops hd] at h
      exact .inr (illegalWord_next h)

/-- The word of the opcode table that withFetchWord issues is the word decodeTableWord decodes. -/
theorem decodeTableWord_eq_some {nbits w : Nat} {i : Instr} (h : decodeTableWord nbits w = some i) :
    decode (BitVec.ofNat 32 (w % 2 ^ nbits)) = .ok i := by
  unfold decodeTableWord at h
  split at h
  · rename_i j hj
    cases h
    exact hj
  · cases h

/-! ## The statements -/

/-- Settles O1: a step looks at the oldest issued word only, and withFetchWord issues in front. -/
theorem stepPerformsTheOldestIssuedWord : Obligations.StepPerformsTheOldestIssuedWord :=
  ⟨fun _ _ _ _ hops hd => step_of_decode hops hd, fun _ hops => step_of_no_word hops,
    fun s nbits w _ hd => step_of_decode (withFetchWord_ops s nbits w) (decodeTableWord_eq_some hd)⟩

/-- Settles O2: the word is taken, and the interface of the ready state raises its fault. -/
theorem illegalWordRecordsIllegalOp : Obligations.IllegalWordRecordsIllegalOp := by
  intro s w rest e hs hops hd
  rw [step_of_illegal hops hd]
  exact illegalWord_ready (s := { s with ops := rest }) hs w

/-- Settles O9: the gate of each operation named is closed in the other configuration. -/
theorem closedGateRecordsIllegalOp : Obligations.ClosedGateRecordsIllegalOp := by
  intro s a b c hs
  refine ⟨fun h2 => exec_illegal (i := .cPrep2 a b) hs ?_, fun h3 => exec_illegal (i := .cPrep3 a b c) hs ?_,
    fun hsync => ⟨exec_illegal (i := .rOnAddr a) hs ?_, exec_illegal (i := .rOnData a) hs ?_,
      exec_illegal (i := .rOnEnd) hs ?_, exec_illegal (i := .rHas) hs ?_, exec_illegal (i := .rTake) hs ?_⟩⟩
  · simp [Instr.wf, gateOpen, h2]
  · simp [Instr.wf, gateOpen, h3]
  all_goals simp [Instr.wf, gateOpen, hsync]

/-- Settles O10: each operand named is past the bound its range check compares it with. -/
theorem operandOutOfRangeRecordsIllegalOp : Obligations.OperandOutOfRangeRecordsIllegalOp := by
  intro s x v hs
  refine ⟨fun h => exec_illegal (i := .iSetRh x) hs ?_, fun h => exec_illegal (i := .sSetCh x) hs ?_,
    fun h => exec_illegal (i := .sExpose x v) hs ?_, fun h => exec_illegal (i := .dSel x) hs ?_,
    fun h => exec_illegal (i := .dDuty x) hs ?_⟩
  all_goals
    simp only [Instr.wf, gateOpen, inRange, Bool.true_and, decide_eq_false_iff_not]
    exact Nat.not_le.2 h

end Sys2Proof.Machine
end

section
/-! The Command Queue and the transmit codec (40_queue.md, 41_codec.md): appending a command frame, runs of operations,
and the statements O12, O17, O19, O20 and O23. -/

namespace Sys2Proof.Machine

/-! ## Runs of operations (R61) -/

@[simp] theorem execAll_nil (s : State) : execAll [] s = .next s := rfl

theorem execAll_cons_of_next {i : Instr} {s t : State} (h : exec i s = .next t) (is : List Instr) :
    execAll (i :: is) s = execAll is t := by
  simp only [execAll, h]

/-! ## Appending a command frame (R123, R124) -/

/-- The field position C.PREPn leaves: re-armed when the codec was idle or the queue empty. -/
theorem prepRearms_iff (s : State) : s.prepRearms = true ↔ s.cs = .noCmd ∨ s.cs = .complete ∨ s.cq = [] := by
  simp [State.prepRearms, State.cqEmpty, FieldPos.idle_iff, or_assoc]

theorem prepare_of_room {frame : List Byte} {s : State} (h : s.cq.length + frame.length ≤ s.cfg.cqCapacity) :
    prepare frame s = .ok (.silent
      { s with cq := s.cq ++ frame,
               cs := if s.cs = .noCmd ∨ s.cs = .complete ∨ s.cq = [] then .addrP else s.cs }) := by
  simp only [prepare, cqAppend_of_room h, prepRearms_iff]
  split <;> rfl

theorem prepare_of_no_room {frame : List Byte} {s : State} (h : s.cfg.cqCapacity < s.cq.length + frame.length) :
    prepare frame s = .error .cqOverflow := by
  simp only [prepare, cqAppend_of_no_room h]

/-- R75: the gate of each C.PREPn. -/
theorem wf_cPrep2_iff (c : Config) (a v : Byte) : Instr.wf c (.cPrep2 a v) = true ↔ c.fieldCount = 2 := by
  simp [Instr.wf, gateOpen, inRange]

theorem wf_cPrep3_iff (c : Config) (a k v : Byte) : Instr.wf c (.cPrep3 a k v) = true ↔ c.fieldCount = 3 := by
  simp [Instr.wf, gateOpen, inRange]

/-! ## The rule of `C.NEXT` (R121) -/

theorem cqEmpty_eq_decide (s : State) : s.cqEmpty = decide (s.cq.length = 0) := by
  cases hq : s.cq <;> simp [State.cqEmpty, hq]

theorem cNextBody_of_idle {s : State} (hi : s.cs.idle = true) : cNextBody s = .ok (.returning s (.byte 0)) := by
  simp only [cNextBody, callNext_of_idle hi]

theorem cNextBody_of_cons {s : State} {b : Byte} {rest : List Byte} (hi : s.cs.idle = false) (hq : s.cq = b :: rest) :
    cNextBody s = .ok (.returning { s with cq := rest, cs := s.cs.advance s.cfg.fieldCount } (.byte b)) := by
  simp only [cNextBody, callNext_of_cons hi hq]

theorem cNextBody_of_nil {s : State} (hi : s.cs.idle = false) (hq : s.cq = []) :
    cNextBody s = .error .cqUnderflow := by
  simp only [cNextBody, callNext_of_nil hi hq]

/-! ## The statements -/

/-- Settles O12: neither operation has a gate or a range, and their rules read and write the queue alone. -/
theorem queueTestAndResetResult : Obligations.QueueTestAndResetResult := by
  intro s hs
  rw [← cqEmpty_eq_decide]
  exact ⟨exec_ok (i := .qIsEmpty) hs rfl rfl, exec_ok (i := .qReset) hs rfl rfl⟩

/-- Settles O17: mid-command, the position after the removal is the one R121 names for each of the three fields. -/
theorem nextByteAdvancesTheFieldPosition : Obligations.NextByteAdvancesTheFieldPosition := by
  refine ⟨rfl, fun s hs => ⟨fun hidle => ?_, fun hno hcomplete hq => ?_, fun b rest hq => ?_⟩⟩
  · exact exec_ok (i := .cNext) hs rfl (cNextBody_of_idle (s.cs.idle_iff.2 hidle))
  · exact exec_error (i := .cNext) hs rfl (cNextBody_of_nil (s.cs.idle_eq_false_iff.2 ⟨hno, hcomplete⟩) hq)
  · have hnext (hi : s.cs.idle = false) := exec_ok (i := .cNext) hs rfl (cNextBody_of_cons hi hq)
    refine ⟨fun hcs => ?_, fun hcs => ?_, fun hcs => ?_⟩
    all_goals
      rw [hcs] at hnext
      exact hnext rfl

/-- Settles O19: the frame has two bytes, and room is asked for both. -/
theorem prepareTwoByteCommand : Obligations.PrepareTwoByteCommand := by
  refine fun s a v => ⟨rfl, fun hs h2 => ⟨fun hroom => ?_, fun hfull => ?_⟩⟩
  · exact exec_ok (i := .cPrep2 a v) hs ((wf_cPrep2_iff _ a v).2 h2) (prepare_of_room (frame := frame2 a v) hroom)
  · exact exec_error (i := .cPrep2 a v) hs ((wf_cPrep2_iff _ a v).2 h2) (prepare_of_no_room (frame := frame2 a v) hfull)

/-- Settles O20: likewise with three bytes. -/
theorem prepareThreeByteCommand : Obligations.PrepareThreeByteCommand := by
  refine fun s a k v => ⟨rfl, fun hs h3 => ⟨fun hroom => ?_, fun hfull => ?_⟩⟩
  · exact exec_ok (i := .cPrep3 a k v) hs ((wf_cPrep3_iff _ a k v).2 h3)
      (prepare_of_room (frame := frame3 a k v) hroom)
  · exact exec_error (i := .cPrep3 a k v) hs ((wf_cPrep3_iff _ a k v).2 h3)
      (prepare_of_no_room (frame := frame3 a k v) hfull)

/-- An empty queue is within its bound, so `Q.RESET` leaves a ready state ready. -/
theorem ready_of_empty_queue {s : State} (h : s.Ready) : State.Ready { s with cq := [] } := by
  obtain ⟨hlegal, hfault⟩ := h
  obtain ⟨hw, -, hrest⟩ := (legal_iff s).1 hlegal
  exact ⟨(legal_iff _).2 ⟨hw, Nat.zero_le _, hrest⟩, hfault⟩

/-- Settles O23: `Q.RESET` leaves `cs` mid-command over an empty queue, where `C.NEXT` has no byte to remove. -/
theorem queueResetMidCommandMakesNextUnderflow : Obligations.QueueResetMidCommandMakesNextUnderflow := by
  intro s hs hno hcomplete
  have hreset : exec .qReset s = .next (State.observing { s with cq := [] } [] .none) :=
    exec_ok (i := .qReset) hs rfl rfl
  have hnext := exec_error (i := .cNext) (s := State.observing { s with cq := [] } [] .none)
    (ready_of_empty_queue (s := s) hs) rfl (cNextBody_of_nil (s.cs.idle_eq_false_iff.2 ⟨hno, hcomplete⟩) rfl)
  rw [execAll_cons_of_next hreset, execAll_cons_of_next hnext]
  rfl

end Sys2Proof.Machine
end

section
/-! The receive codec (42_rx_codec.md): the end of a transaction case by case, and the statements O24, O25 and O26. -/

namespace Sys2Proof.Machine

/-! ## The rule of `R.ONEND` (R142) -/

theorem stagingComplete_iff (s : State) :
    s.stagingComplete = true ↔ s.stValid = true ∧ s.cfg.fieldCount - 1 ≤ s.stNd.toNat := by
  simp [State.stagingComplete]

theorem stagingComplete_eq_false_iff (s : State) :
    s.stagingComplete = false ↔ s.stValid = false ∨ s.stNd.toNat < s.cfg.fieldCount - 1 := by
  rw [← Bool.not_eq_true, stagingComplete_iff, not_and_or, Bool.not_eq_true, Nat.not_le]

theorem callOnEnd_of_room {s : State} (hc : s.stagingComplete = true) (hroom : s.rxq.length < s.cfg.rxqCapacity) :
    callOnEnd s = .ok { s with rxq := s.rxq ++ [⟨s.stAddr, s.stKind, s.stValue⟩], stValid := false } := by
  simp [callOnEnd, rxqAppend, hc, Nat.not_le.2 hroom]

theorem callOnEnd_of_full {s : State} (hc : s.stagingComplete = true) (hfull : s.cfg.rxqCapacity ≤ s.rxq.length) :
    callOnEnd s = .error .rxqOverflow := by
  simp [callOnEnd, rxqAppend, hc, hfull]

theorem callOnEnd_of_incomplete {s : State} (hc : s.stagingComplete = false) :
    callOnEnd s = .ok { s with stValid := false } := by
  simp [callOnEnd, hc]

theorem rOnEndBody_of_ok {s t : State} (h : callOnEnd s = .ok t) : rOnEndBody s = .ok (.silent t) := by
  simp only [rOnEndBody, h]

theorem rOnEndBody_of_error {s : State} {c : FaultCode} (h : callOnEnd s = .error c) : rOnEndBody s = .error c := by
  simp only [rOnEndBody, h]

/-- R33: a ready receive queue that does not hold `RXQ_CAPACITY` commands has room. -/
theorem ready_rxq_lt {s : State} (h : s.Ready) (hne : s.rxq.length ≠ s.cfg.rxqCapacity) :
    s.rxq.length < s.cfg.rxqCapacity := by
  obtain ⟨-, -, hle, -⟩ := (legal_iff s).1 (ready_legal h)
  exact lt_of_le_of_ne hle hne

/-! ## The rule of `R.TAKE` (R144) -/

theorem rTakeBody_of_cons {s : State} {c : Command} {rest : List Command} (h : s.rxq = c :: rest) :
    rTakeBody s = .ok (.returning { s with rxq := rest } (.command c)) := by
  simp only [rTakeBody, rxqRemove, h]

theorem rTakeBody_of_nil {s : State} (h : s.rxq = []) : rTakeBody s = .error .rxqUnderflow := by
  simp only [rTakeBody, rxqRemove, h]

/-! ## The gates (R75) -/

/-- The five R operations: their operands take every value and their gate is QUEUED mode. -/
theorem wf_of_queued {c : Config} (h : c.rxMode = .queued) {i : Instr} (hgate : gateOpen c i = (c.rxMode == .queued))
    (hrange : inRange c i = true) : i.wf c = true := by
  simp [Instr.wf, hgate, hrange, h]

theorem rxPending_eq_decide (s : State) : s.rxPending = decide (0 < s.rxq.length) := by
  cases hq : s.rxq <;> simp [State.rxPending, hq]

/-! ## The statements -/

/-- Settles O24: in QUEUED mode both operations complete with their call. -/
theorem stagingCommandIsOpenedAndFilled : Obligations.StagingCommandIsOpenedAndFilled :=
  fun _ a => ⟨rfl, rfl, fun hs hq =>
    ⟨exec_ok (i := .rOnAddr a) hs (wf_of_queued hq rfl rfl) rfl,
      exec_ok (i := .rOnData a) hs (wf_of_queued hq rfl rfl) rfl⟩⟩

/-- Settles O25: the staging command is completed or not, and the receive queue has room or is full. -/
theorem transactionEndPushesACompletedCommand : Obligations.TransactionEndPushesACompletedCommand := by
  refine ⟨rfl, fun s hs hq => ⟨fun hv hn hroom => ?_, fun hv hn hfull => ?_, fun hinc => ?_⟩⟩
  · exact exec_ok (i := .rOnEnd) hs (wf_of_queued hq rfl rfl)
      (rOnEndBody_of_ok (callOnEnd_of_room ((stagingComplete_iff s).2 ⟨hv, hn⟩) (ready_rxq_lt hs hroom)))
  · exact exec_error (i := .rOnEnd) hs (wf_of_queued hq rfl rfl)
      (rOnEndBody_of_error (callOnEnd_of_full ((stagingComplete_iff s).2 ⟨hv, hn⟩) hfull.ge))
  · exact exec_ok (i := .rOnEnd) hs (wf_of_queued hq rfl rfl)
      (rOnEndBody_of_ok (callOnEnd_of_incomplete ((stagingComplete_eq_false_iff s).2 hinc)))

/-- Settles O26: `R.HAS` reads the length of the queue, and `R.TAKE` has a head to remove or none. -/
theorem pendingCommandsAreTakenInOrder : Obligations.PendingCommandsAreTakenInOrder := by
  refine ⟨rfl, rfl, fun s hs hq => ⟨?_, fun c rest hcons => ?_, fun hnil => ?_⟩⟩
  · rw [← rxPending_eq_decide]
    exact exec_ok (i := .rHas) hs (wf_of_queued hq rfl rfl) rfl
  · exact exec_ok (i := .rTake) hs (wf_of_queued hq rfl rfl) (rTakeBody_of_cons hcons)
  · exact exec_error (i := .rTake) hs (wf_of_queued hq rfl rfl) (rTakeBody_of_nil hnil)

end Sys2Proof.Machine
end

section
/-! The Bus Initiator Engine (43_initiator.md): the rule of `I.STEP` in DATA_OUT, STOP and DONE, the one state that
reads its operand, and the statements O29, O32, O33 and O34. -/

namespace Sys2Proof.Machine

/-! ## The rule of `I.STEP` in DATA_OUT (R163), STOP (R166) and DONE (R167) -/

theorem iStepBody_of_dataOut {s : State} (h : s.iniState = .dataOut) (rx : Byte) :
    iStepBody rx s = stepDataOut s := by
  simp only [iStepBody, h]

theorem iStepBody_of_stop {s : State} (h : s.iniState = .stop) (rx : Byte) : iStepBody rx s = stepStop s := by
  simp only [iStepBody, h]

theorem iStepBody_of_done {s : State} (h : s.iniState = .done) (rx : Byte) : iStepBody rx s = stepDone s := by
  simp only [iStepBody, h]

/-- The last field of a frame is its value. -/
theorem FieldPos.advance_eq_complete_iff {p : FieldPos} (hi : p.idle = false) (fieldCount : Nat) :
    p.advance fieldCount = .complete ↔ p = .valueP := by
  cases p with
  | noCmd | complete => cases hi
  | addrP => by_cases h : fieldCount = 3 <;> simp [FieldPos.advance, h]
  | kindP | valueP => simp [FieldPos.advance]

/-- An idle codec gives the sentinel, and COMPLETE is fully sent. -/
theorem stepDataOut_of_idle {s : State} (hi : s.cs.idle = true) :
    stepDataOut s = .ok (.emitting
      { s with iniState := if s.cs = .complete then .stop else s.iniState } [.busTx 0]) := by
  simp only [stepDataOut, callNext_of_idle hi, sent_eq_decide, decide_eq_true_eq]
  split <;> rfl

theorem stepDataOut_of_cons {s : State} {b : Byte} {rest : List Byte} (hi : s.cs.idle = false)
    (hq : s.cq = b :: rest) :
    stepDataOut s = .ok (.emitting
      { s with cq := rest, cs := s.cs.advance s.cfg.fieldCount,
               iniState := if s.cs = .valueP then .stop else s.iniState } [.busTx b]) := by
  simp only [stepDataOut, callNext_of_cons hi hq, sent_eq_decide, decide_eq_true_eq,
    FieldPos.advance_eq_complete_iff hi]
  split <;> rfl

theorem stepDataOut_of_nil {s : State} (hi : s.cs.idle = false) (hq : s.cq = []) :
    stepDataOut s = .error .cqUnderflow := by
  simp only [stepDataOut, callNext_of_nil hi hq]

theorem stepDone_of_nil {s : State} (hq : s.cq = []) : stepDone s = .ok (.silent { s with iniState := .addr }) := by
  simp only [stepDone, callAvail_of_nil hq]

theorem stepDone_of_ne_nil {s : State} (hq : s.cq ≠ []) :
    stepDone s = .ok (.emitting { s with iniState := .addr, cs := s.cs.rearmed } [.busStart]) := by
  simp only [stepDone, callAvail_of_ne_nil hq]

/-- Only the step in DATA_IN reads the byte the bus presents. -/
theorem iStepBody_operand {s : State} (h : s.iniState ≠ .dataIn) (rx rx' : Byte) :
    iStepBody rx s = iStepBody rx' s := by
  cases hst : s.iniState with
  | dataIn => exact absurd hst h
  | addr | dataOut | prepIn | stop | done => simp only [iStepBody, hst]

/-! ## The statements -/

/-- Settles O29: outside NOCMD a codec that is not COMPLETE is mid-command, and has a byte to place or none. -/
theorem dataOutStepPlacesOneByte : Obligations.DataOutStepPlacesOneByte := by
  intro s rx hs hidle hout
  have hstep := iStepBody_of_dataOut hout rx
  have hmid (hne : s.cs ≠ .complete) : s.cs.idle = false := by
    have hno : s.cs ≠ .noCmd := fun h => nomatch hout.symm.trans (hidle h)
    exact s.cs.idle_eq_false_iff.2 ⟨hno, hne⟩
  refine ⟨fun hcomplete => ?_, fun hne hq => ?_, fun b rest hne hq => ?_⟩
  · have hrule := stepDataOut_of_idle (s.cs.idle_iff.2 (.inr hcomplete))
    rw [if_pos hcomplete] at hrule
    exact exec_ok (i := .iStep rx) hs rfl (hstep.trans hrule)
  · exact exec_error (i := .iStep rx) hs rfl (hstep.trans (stepDataOut_of_nil (hmid hne) hq))
  · have hrule := stepDataOut_of_cons (hmid hne) hq
    rw [hout] at hrule
    exact exec_ok (i := .iStep rx) hs rfl (hstep.trans hrule)

/-- Settles O32: STOP has one case, and DONE those of `C.AVAIL`. -/
theorem stopAndDoneStepsEndTheTransaction : Obligations.StopAndDoneStepsEndTheTransaction := by
  intro s rx hs
  refine ⟨fun hstop => ?_, fun hdone hq => ?_, fun hdone hq => ?_⟩
  · exact exec_ok (i := .iStep rx) hs rfl (iStepBody_of_stop hstop rx)
  · exact exec_ok (i := .iStep rx) hs rfl ((iStepBody_of_done hdone rx).trans (stepDone_of_nil hq))
  · exact exec_ok (i := .iStep rx) hs rfl ((iStepBody_of_done hdone rx).trans (stepDone_of_ne_nil hq))

/-- Settles O33: each operand named stands for the value it registers (R76). -/
theorem registrationSetsTheHandlerKind : Obligations.RegistrationSetsTheHandlerKind := by
  intro s hs
  refine ⟨exec_ok (i := .iSetRh 0) hs rfl rfl, exec_ok (i := .iSetRh 1) hs rfl rfl, exec_ok (i := .sSetCh 0) hs rfl rfl,
    exec_ok (i := .sSetCh 1) hs rfl rfl, exec_ok (i := .sSetCh 2) hs rfl rfl⟩

/-- Settles O34: the two operands give one rule, which completed. -/
theorem stepOperandIsReadInDataInOnly : Obligations.StepOperandIsReadInDataInOnly := by
  intro s t rx rx' hs hne hexec ht
  obtain ⟨hlegal, -⟩ := exec_next hexec
  obtain ⟨-, e, he, rfl⟩ := exec_completed hexec hs ht
  exact exec_ok (i := .iStep rx') ⟨hlegal, hs⟩ rfl ((iStepBody_operand hne rx' rx).trans he)

end Sys2Proof.Machine
end

section
/-! The Bus Responder Engine (44_responder.md): the rule of `S.STOP` in each mode, the table after `S.EXPOSE`, and the
statements O37 and O43. -/

namespace Sys2Proof.Machine

/-! ## The rule of `S.STOP` (R181) -/

theorem sStopBody_of_sync {s : State} (h : s.cfg.rxMode = .sync) :
    sStopBody s = .ok (.silent { s with rsPhase := .none }) := by
  simp only [sStopBody, h]

theorem sStopBody_of_ok {s t : State} (h : s.cfg.rxMode = .queued) (hend : callOnEnd s = .ok t) :
    sStopBody s = .ok (.silent { t with rsPhase := .none }) := by
  simp only [sStopBody, h, hend]

theorem sStopBody_of_error {s : State} {c : FaultCode} (h : s.cfg.rxMode = .queued) (hend : callOnEnd s = .error c) :
    sStopBody s = .error c := by
  simp only [sStopBody, h, hend]

/-! ## The table after `S.EXPOSE` (R189) -/

/-- R76: the range of the sub-address operand. -/
theorem wf_sExpose_iff (c : Config) (l v : Byte) : Instr.wf c (.sExpose l v) = true ↔ l.toNat < c.regCount := by
  have hpos : 0 < c.regCount := Nat.two_pow_pos _
  have hrange : Instr.wf c (.sExpose l v) = decide (l.toNat ≤ c.lmask) := Bool.true_and _
  rw [hrange, decide_eq_true_iff, Config.lmask]
  omega

/-- An observation is no part of the record of R20. -/
theorem ready_observing {s : State} (h : s.Ready) (es : List OutEvent) (r : Ret) : (s.observing es r).Ready := h

theorem ready_regWrite {s : State} (h : s.Ready) (l v : Byte) : (regWrite l v s).Ready := by
  obtain ⟨hlegal, hfault⟩ := h
  obtain ⟨hw, hcq, hrxq, hlocal, hptr, hregs⟩ := (legal_iff s).1 hlegal
  exact ⟨(legal_iff _).2 ⟨hw, hcq, hrxq, hlocal, hptr, (regWrite_length l v s).trans hregs⟩, hfault⟩

theorem getElem?_regWrite {s : State} {l : Byte} (hl : l.toNat < s.regs.length) (v : Byte) (n : Nat) :
    (regWrite l v s).regs[n]? = if n = l.toNat then some v else s.regs[n]? := by
  simp only [regWrite, List.getElem?_set, hl, if_true, eq_comm]

/-- The events of the one observation `t` has beyond `s`. -/
theorem emitted_of_trace {s t : State} {es : List OutEvent} {r : Ret} (h : t.trace = s.trace ++ [⟨es, r⟩]) :
    emitted s t = es := by
  simp [emitted, h]

/-! ## The statements -/

/-- Settles O37: in QUEUED mode the three cases are those of `R.ONEND`. -/
theorem stopEndsTheTransaction : Obligations.StopEndsTheTransaction := by
  refine ⟨rfl, fun s hs => ⟨fun hsync => ?_, fun hq hv hn hroom => ?_, fun hq hv hn hfull => ?_, fun hq hinc => ?_⟩⟩
  · exact exec_ok (i := .sStop) hs rfl (sStopBody_of_sync hsync)
  · exact exec_ok (i := .sStop) hs rfl
      (sStopBody_of_ok hq (callOnEnd_of_room ((stagingComplete_iff s).2 ⟨hv, hn⟩) (ready_rxq_lt hs hroom)))
  · exact exec_error (i := .sStop) hs rfl
      (sStopBody_of_error hq (callOnEnd_of_full ((stagingComplete_iff s).2 ⟨hv, hn⟩) hfull.ge))
  · exact exec_ok (i := .sStop) hs rfl
      (sStopBody_of_ok hq (callOnEnd_of_incomplete ((stagingComplete_eq_false_iff s).2 hinc)))

/-- Settles O43: the entry is an index of the table, so it holds the value written, and the read that selects it reads
that entry. -/
theorem exposedValueIsTheOneSupplied : Obligations.ExposedValueIsTheOneSupplied := by
  intro s l v hs hl
  obtain ⟨-, -, -, -, -, hregs⟩ := (legal_iff s).1 (ready_legal hs)
  have hget := getElem?_regWrite (s := s) (l := l) (hregs ▸ hl) v
  refine ⟨(regWrite l v s).observing [] .none, exec_ok (i := .sExpose l v) hs ((wf_sExpose_iff _ l v).2 hl) rfl, rfl,
    hget, fun haddr b hb => ?_⟩
  have hentry : (regWrite l v s).regs[b.toNat / 2 % s.cfg.regCount]? = some v := (hget _).trans (if_pos hb)
  have hready := ready_observing (ready_regWrite hs l v) [] .none
  have hrule := (sByteRBody_of_addr (s := (regWrite l v s).observing [] .none) haddr b).trans
    (readAddress_of_entry (ready_wf hready) hentry)
  have hread := exec_ok (i := .sByteR b) hready rfl hrule
  exact ⟨_, hread, emitted_of_trace rfl⟩

end Sys2Proof.Machine
end

section
/-! The Duty Scheduler (45_duty.md): its operations on a ready state, and the statements O44, O46 and O47. -/

namespace Sys2Proof.Machine

/-! ## The operations on a ready state (R200 to R203) -/

/-- The state `D.TICK` leaves (R202). -/
def ticked (s : State) : State := { s with dsPhase := s.dsPhase.other, dsCurrent := s.dsPending }

theorem ready_callSel {s : State} (h : s.Ready) (c : Channel) : (callSel c s).Ready := h
theorem ready_callSetP {s : State} (h : s.Ready) (v : Byte) : (callSetP v s).Ready := h
theorem ready_ticked {s : State} (h : s.Ready) : (ticked s).Ready := h

/-- R76: the operand bytes in range are those that stand for a channel. -/
theorem toNat_le_one_of_channel {b : Byte} {c : Channel} (h : channelOperand b = some c) : b.toNat ≤ 1 := by
  have hsome : (channelOperand b).isSome = true := Option.isSome_of_eq_some h
  rwa [channelOperand_isSome, decide_eq_true_iff] at hsome

theorem exec_dSel_ready {s : State} (hs : s.Ready) {b : Byte} {c : Channel} (h : channelOperand b = some c) :
    exec (.dSel b) s = .next ((callSel c s).observing [] .none) := by
  have hrule : dSelBody b s = .ok (.silent (callSel c s)) := by simp only [dSelBody, h]
  exact exec_ok (i := .dSel b) hs (decide_eq_true (toNat_le_one_of_channel h)) hrule

theorem exec_dSetP_ready {s : State} (hs : s.Ready) (v : Byte) :
    exec (.dSetP v) s = .next ((callSetP v s).observing [] .none) :=
  exec_ok (i := .dSetP v) hs rfl rfl

theorem exec_dTick_ready {s : State} (hs : s.Ready) :
    exec .dTick s = .next ((ticked s).observing [] (.bool s.dsPhase.other.isOne)) :=
  exec_ok (i := .dTick) hs rfl rfl

theorem exec_dDuty_ready {s : State} (hs : s.Ready) {b : Byte} {c : Channel} (h : channelOperand b = some c) :
    exec (.dDuty b) s = .next (s.observing [] (.byte (dutyOf c s))) := by
  have hrule : dDutyBody b s = .ok (.returning s (.byte (dutyOf c s))) := by simp only [dDutyBody, h]
  exact exec_ok (i := .dDuty b) hs (decide_eq_true (toNat_le_one_of_channel h)) hrule

/-! ## A pending value becomes current (R205) -/

theorem callSetP_of_sel {s : State} {c : Channel} (h : s.dsSel = c) (v : Byte) :
    callSetP v s = { s with dsPending := s.dsPending.set c v } := by
  subst h
  rfl

/-- `D.SEL c`, `D.SETP v`: the state whose pending value of channel `c` is `v`, with both observations. -/
def withPending (c : Channel) (v : Byte) (s : State) : State :=
  (callSetP v ((callSel c s).observing [] .none)).observing [] .none

theorem withPending_get (c : Channel) (v : Byte) (s : State) : (withPending c v s).dsPending.get c = v :=
  (get_set s.dsPending c c v).trans (if_pos rfl)

theorem ready_withPending {s : State} (h : s.Ready) (c : Channel) (v : Byte) : (withPending c v s).Ready :=
  ready_observing (ready_callSetP (ready_observing (ready_callSel h c) _ _) v) _ _

theorem execAll_select_set {s : State} (hs : s.Ready) {b : Byte} {c : Channel} (hc : channelOperand b = some c)
    (v : Byte) (is : List Instr) : execAll (.dSel b :: .dSetP v :: is) s = execAll is (withPending c v s) := by
  rw [execAll_cons_of_next (exec_dSel_ready hs hc),
    execAll_cons_of_next (exec_dSetP_ready (ready_observing (ready_callSel hs c) _ _) v)]
  rfl

/-- While the other channel drives, a tick latches the pending value of channel `c` and hands it the period. -/
theorem execAll_tick_duty {s : State} (hs : s.Ready) {b : Byte} {c : Channel} (hc : channelOperand b = some c)
    (hphase : s.dsPhase.other = c) :
    ∃ t, execAll [.dTick, .dDuty b] s = .next t ∧
      t.trace.getLast? = some ⟨[], .byte (s.dsPending.get c)⟩ ∧ t.dsPhase = c := by
  have hduty : dutyOf c (ticked s) = s.dsPending.get c := if_pos hphase.symm
  refine ⟨((ticked s).observing [] (.bool s.dsPhase.other.isOne)).observing [] (.byte (dutyOf c (ticked s))), ?_, ?_,
    hphase⟩
  · rw [execAll_cons_of_next (exec_dTick_ready hs),
      execAll_cons_of_next (exec_dDuty_ready (ready_observing (ready_ticked hs) _ _) hc)]
    rfl
  · simp [hduty]

theorem pending_output_after_one_tick {s : State} (hs : s.Ready) {b : Byte} {c : Channel}
    (hc : channelOperand b = some c) (hphase : s.dsPhase.other = c) (v : Byte) :
    ∃ t, execAll [.dSel b, .dSetP v, .dTick, .dDuty b] s = .next t ∧
      t.trace.getLast? = some ⟨[], .byte v⟩ ∧ t.dsPhase = c := by
  rw [execAll_select_set hs hc]
  have hrun := execAll_tick_duty (ready_withPending hs c v) hc hphase
  rwa [withPending_get] at hrun

/-- While channel `c` drives, the first of two ticks latches its pending value and gives the other the period. -/
theorem pending_output_after_two_ticks {s : State} (hs : s.Ready) {b : Byte} {c : Channel}
    (hc : channelOperand b = some c) (hphase : s.dsPhase = c) (v : Byte) :
    ∃ t, execAll [.dSel b, .dSetP v, .dTick, .dTick, .dDuty b] s = .next t ∧
      t.trace.getLast? = some ⟨[], .byte v⟩ ∧ t.dsPhase = c := by
  have hready := ready_withPending hs c v
  have hback : (ticked (withPending c v s)).dsPhase.other = c := (other_other s.dsPhase).trans hphase
  have hget : (ticked (withPending c v s)).dsPending.get c = v := withPending_get c v s
  rw [execAll_select_set hs hc, execAll_cons_of_next (exec_dTick_ready hready)]
  have hrun := execAll_tick_duty (ready_observing (ready_ticked hready) []
    (.bool (withPending c v s).dsPhase.other.isOne)) hc hback
  rwa [observing_dsPending, hget] at hrun

/-! ## The statements -/

/-- Settles O44: `D.SETP` writes the byte of the channel that `ds_sel` names. -/
theorem selectAndSetPendingResult : Obligations.SelectAndSetPendingResult := by
  intro s v hs
  have hset := exec_dSetP_ready hs v
  refine ⟨exec_dSel_ready hs (b := 0) rfl, exec_dSel_ready hs (b := 1) rfl, fun h => ?_, fun h => ?_⟩
  all_goals
    rw [callSetP_of_sel h] at hset
    exact hset

/-- Settles O46: the two channels' values are those of R203, and the phase names one of the two. -/
theorem dutyIsTheDrivenChannelsOnly : Obligations.DutyIsTheDrivenChannelsOnly := by
  intro s hs
  refine ⟨dutyOf .ch0 s, dutyOf .ch1 s, exec_dDuty_ready hs (b := 0) rfl, exec_dDuty_ready hs (b := 1) rfl, ?_⟩
  cases hphase : s.dsPhase <;> simp [dutyOf, hphase, PerChannel.get]

/-- Settles O47: one tick when the other channel drives, two when the channel itself does. -/
theorem pendingValueIsOutputWithinTwoTicks : Obligations.PendingValueIsOutputWithinTwoTicks := by
  intro s v hs
  refine ⟨fun h => pending_output_after_one_tick hs (b := 0) rfl ?_ v,
    fun h => pending_output_after_two_ticks hs (b := 0) rfl h v,
    fun h => pending_output_after_one_tick hs (b := 1) rfl ?_ v,
    fun h => pending_output_after_two_ticks hs (b := 1) rfl h v⟩
  all_goals rw [h]; rfl

end Sys2Proof.Machine
end

section
/-! Power-on reset and protocol re-initialization (70_reset_and_hazards.md, 46_system.md): both states are legal, and
the statements O48 and O49. -/

namespace Sys2Proof.Machine

/-! ## The two states are legal -/

theorem legal_por {c : Config} (h : c.wf = true) : (State.por c).legal = true :=
  (legal_iff _).2 ⟨h, Nat.zero_le _, Nat.zero_le _, Nat.zero_le _, Nat.zero_le _, List.length_replicate⟩

theorem legal_reinitialized {s : State} (h : s.legal = true) : (reinitialized s).legal = true := by
  obtain ⟨hw, -, -, -, -, hregs⟩ := (legal_iff s).1 h
  exact (legal_iff _).2 ⟨hw, Nat.zero_le _, Nat.zero_le _, Nat.zero_le _, Nat.zero_le _, hregs⟩

theorem ready_reinitialized {s : State} (h : s.Ready) : (reinitialized s).Ready :=
  ⟨legal_reinitialized (ready_legal h), ready_fault (s := s) h⟩

/-- R127, R274: the POR state meets the invariants; its codec is idle over an empty queue. -/
theorem inv_por {c : Config} (h : c.wf = true) : (State.por c).Inv :=
  ⟨legal_por h, nofun, fun _ => rfl⟩

/-! ## The statements -/

/-- Settles O48: what R220 keeps is what the POR state of the configuration is given back. -/
theorem reinitializeResetsEnginesAndQueues : Obligations.ReinitializeResetsEnginesAndQueues := by
  refine ⟨rfl, fun s hs => ⟨_, rfl, ?_, ?_, ?_⟩⟩
  all_goals
    have hpor : State.observing { State.por s.cfg with
          regs := s.regs, chHandler := s.chHandler, rhSet := s.rhSet, dsPending := s.dsPending,
          dsCurrent := s.dsCurrent, dsSel := s.dsSel, dsPhase := s.dsPhase, ops := s.ops, trace := s.trace } [] .none =
        (reinitialized s).observing [] .none := by
      simp only [State.observing, reinitialized, State.por, ready_fault hs]
    rw [hpor]
  all_goals have hready : ((reinitialized s).observing [] .none).Ready := ready_observing (ready_reinitialized hs) _ _
  · exact exec_ok (i := .xReinit) hs rfl rfl
  · exact exec_cAvail_of_callAvail hready (callAvail_of_nil rfl)
  · exact exec_ok (i := .qIsEmpty) hready rfl rfl

/-- Settles O49: POR refuses by the test of R9, and its state has every element at its first legal value. -/
theorem powerOnStateIsLegalAndClean : Obligations.PowerOnStateIsLegalAndClean := by
  refine ⟨fun c hw =>
      ⟨if_pos hw, inv_por hw, ⟨Nat.zero_le _, rfl⟩, ⟨rfl, rfl, rfl, rfl, rfl, rfl, rfl⟩, fun n hn => ?_⟩,
    fun c hw => by simp [State.construct, hw], rfl, inv_por rfl⟩
  simp [State.por, Config.regCount, hn]

end Sys2Proof.Machine
end

section
/-! Everything the rules can do: the outcomes of every operation's rule, one case for each branch of its pseudocode,
completions and faults, and the lemmas that every rule ends in one of them. The invariants are read off these cases. -/

namespace Sys2Proof.Machine

open Sys2Proof.Claims

/-! ## How a rule completes -/

/-- `Completes s i e`: a branch of the rule of `i` that leaves the effect `e` on the legal state `s`. The hypotheses of
a case are the tests of its branch. -/
inductive Completes (s : State) : Instr → Effect → Prop where
  | qIsEmpty : Completes s .qIsEmpty (.returning s (.bool s.cqEmpty))
  | qEnq {b : Byte} (room : s.cq.length + [b].length ≤ s.cfg.cqCapacity) :
      Completes s (.qEnq b) (.silent { s with cq := s.cq ++ [b] })
  | qDeq {b : Byte} {rest : List Byte} (hq : s.cq = b :: rest) :
      Completes s .qDeq (.returning { s with cq := rest } (.byte b))
  | qReset : Completes s .qReset (.silent { s with cq := [] })
  | cAvail_empty (hq : s.cq = []) : Completes s .cAvail (.returning s (.bool false))
  | cAvail_waiting (hq : s.cq ≠ []) : Completes s .cAvail (.returning { s with cs := s.cs.rearmed } (.bool true))
  | cNext_idle (hi : s.cs.idle = true) : Completes s .cNext (.returning s (.byte 0))
  | cNext_byte {b : Byte} {rest : List Byte} (hi : s.cs.idle = false) (hq : s.cq = b :: rest) :
      Completes s .cNext (.returning { s with cq := rest, cs := s.cs.advance s.cfg.fieldCount } (.byte b))
  | cSent : Completes s .cSent (.returning s (.bool s.sent))
  | cPrep2 {a v : Byte} (room : s.cq.length + (frame2 a v).length ≤ s.cfg.cqCapacity) :
      Completes s (.cPrep2 a v)
        (.silent { s with cq := s.cq ++ frame2 a v, cs := if s.prepRearms then .addrP else s.cs })
  | cPrep3 {a k v : Byte} (room : s.cq.length + (frame3 a k v).length ≤ s.cfg.cqCapacity) :
      Completes s (.cPrep3 a k v)
        (.silent { s with cq := s.cq ++ frame3 a k v, cs := if s.prepRearms then .addrP else s.cs })
  | rOnAddr {a : Byte} : Completes s (.rOnAddr a) (.silent (callOnAddr a s))
  | rOnData {b : Byte} : Completes s (.rOnData b) (.silent (callOnData b s))
  | rOnEnd_push (hc : s.stagingComplete = true) (room : s.rxq.length < s.cfg.rxqCapacity) :
      Completes s .rOnEnd (.silent { s with rxq := s.rxq ++ [⟨s.stAddr, s.stKind, s.stValue⟩], stValid := false })
  | rOnEnd_drop (hc : s.stagingComplete = false) : Completes s .rOnEnd (.silent { s with stValid := false })
  | rHas : Completes s .rHas (.returning s (.bool s.rxPending))
  | rTake {c : Command} {rest : List Command} (hq : s.rxq = c :: rest) :
      Completes s .rTake (.returning { s with rxq := rest } (.command c))
  | iArm (hst : s.iniState.armable = true) : Completes s .iArm (.emitting { s with iniState := .addr } [.busStart])
  | iStep_addr_empty {rx : Byte} (hst : s.iniState = .addr) (hq : s.cq = []) : Completes s (.iStep rx) (.silent s)
  | iStep_addr {rx a : Byte} {rest : List Byte} (hst : s.iniState = .addr) (hq : s.cq = a :: rest) :
      Completes s (.iStep rx) (.emitting
        { s with cq := rest, cs := s.cs.rearmed.advance s.cfg.fieldCount, iniAddr := a,
                 iniState := if isReadAddress a then .prepIn else .dataOut } [.busTx a])
  | iStep_dataOut_idle {rx : Byte} (hst : s.iniState = .dataOut) (hi : s.cs.idle = true) :
      Completes s (.iStep rx) (.emitting
        { s with iniState := if s.cs = .complete then .stop else s.iniState } [.busTx 0])
  | iStep_dataOut {rx b : Byte} {rest : List Byte} (hst : s.iniState = .dataOut) (hi : s.cs.idle = false)
      (hq : s.cq = b :: rest) :
      Completes s (.iStep rx) (.emitting
        { s with cq := rest, cs := s.cs.advance s.cfg.fieldCount,
                 iniState := if s.cs = .valueP then .stop else s.iniState } [.busTx b])
  | iStep_prepIn {rx : Byte} (hst : s.iniState = .prepIn) (enough : placeholders s ≤ s.cq.length) :
      Completes s (.iStep rx) (.emitting
        { s with cq := s.cq.drop (placeholders s), cs := advanceBy s.cfg.fieldCount (placeholders s) s.cs,
                 iniState := .dataIn } [.busRcen])
  | iStep_dataIn {rx : Byte} (hst : s.iniState = .dataIn) (hrh : s.rhSet = true) :
      Completes s (.iStep rx) (.emitting { s with iniState := .stop } [.result s.iniAddr rx, .busNack])
  | iStep_stop {rx : Byte} (hst : s.iniState = .stop) :
      Completes s (.iStep rx) (.emitting { s with iniState := .done } [.busStop])
  | iStep_done_empty {rx : Byte} (hst : s.iniState = .done) (hq : s.cq = []) :
      Completes s (.iStep rx) (.silent { s with iniState := .addr })
  | iStep_done {rx : Byte} (hst : s.iniState = .done) (hq : s.cq ≠ []) :
      Completes s (.iStep rx) (.emitting { s with iniState := .addr, cs := s.cs.rearmed } [.busStart])
  | iSetRh {h : Byte} {b : Bool} (hb : bitOperand h = some b) : Completes s (.iSetRh h) (.silent { s with rhSet := b })
  | sStart : Completes s .sStart (.silent { s with rsPhase := .addr, rsDir := .write, rsLocal := 0, rsRdptr := 0 })
  | sStop_sync (hmode : s.cfg.rxMode = .sync) : Completes s .sStop (.silent { s with rsPhase := .none })
  | sStop_push (hmode : s.cfg.rxMode = .queued) (hc : s.stagingComplete = true)
      (room : s.rxq.length < s.cfg.rxqCapacity) : Completes s .sStop (.silent
      { s with rxq := s.rxq ++ [⟨s.stAddr, s.stKind, s.stValue⟩], stValid := false, rsPhase := .none })
  | sStop_drop (hmode : s.cfg.rxMode = .queued) (hc : s.stagingComplete = false) :
      Completes s .sStop (.silent { s with stValid := false, rsPhase := .none })
  | sByteW_none {b : Byte} (hph : s.rsPhase = .none) : Completes s (.sByteW b) (.silent s)
  | sByteW_addr_sync {b : Byte} (hph : s.rsPhase = .addr) (hmode : s.cfg.rxMode = .sync) :
      Completes s (.sByteW b) (.silent { s with rsDir := .write, rsLocal := decodeLocal s.cfg b, rsPhase := .data })
  | sByteW_addr_queued {b : Byte} (hph : s.rsPhase = .addr) (hmode : s.cfg.rxMode = .queued) :
      Completes s (.sByteW b) (.silent (callOnAddr (decodeLocal s.cfg b)
        { s with rsDir := .write, rsLocal := decodeLocal s.cfg b, rsPhase := .data }))
  | sByteW_data_pwm {b : Byte} {c : Channel} {p : PerChannel} (hph : s.rsPhase = .data)
      (hmode : s.cfg.rxMode = .sync) (hh : s.chHandler = .pwm)
      (hpwm : pwmHandler s.rsLocal b s = { s with dsSel := c, dsPending := p }) :
      Completes s (.sByteW b) (.emitting { s with dsSel := c, dsPending := p } [.cmd s.rsLocal b])
  | sByteW_data_external {b : Byte} (hph : s.rsPhase = .data) (hmode : s.cfg.rxMode = .sync)
      (hh : s.chHandler = .external) : Completes s (.sByteW b) (.emitting s [.cmd s.rsLocal b])
  | sByteW_data_queued {b : Byte} (hph : s.rsPhase = .data) (hmode : s.cfg.rxMode = .queued) :
      Completes s (.sByteW b) (.silent (callOnData b s))
  | sByteR_none {b : Byte} (hph : s.rsPhase = .none) : Completes s (.sByteR b) (.silent s)
  | sByteR_addr {b : Byte} (hph : s.rsPhase = .addr) : Completes s (.sByteR b) (.emitting
      { s with rsDir := .read, rsLocal := decodeLocal s.cfg b, rsRdptr := decodeLocal s.cfg b, rsPhase := .data }
      [.respTx (regRead (decodeLocal s.cfg b) s)])
  | sByteR_data {b : Byte} (hph : s.rsPhase = .data) : Completes s (.sByteR b)
      (.emitting { s with rsRdptr := nextEntry s } [.respTx (regRead (nextEntry s) s)])
  | sExpose {l v : Byte} : Completes s (.sExpose l v) (.silent (regWrite l v s))
  | sSetCh {h : Byte} {k : HandlerKind} (hk : handlerOperand h = some k) :
      Completes s (.sSetCh h) (.silent { s with chHandler := k })
  | dSel {i : Byte} {c : Channel} (hc : channelOperand i = some c) : Completes s (.dSel i) (.silent (callSel c s))
  | dSetP {v : Byte} : Completes s (.dSetP v) (.silent (callSetP v s))
  | dTick : Completes s .dTick (.returning (ticked s) (.bool s.dsPhase.other.isOne))
  | dDuty {i : Byte} {c : Channel} (hc : channelOperand i = some c) :
      Completes s (.dDuty i) (.returning s (.byte (dutyOf c s)))
  | xReinit : Completes s .xReinit (.silent (reinitialized s))

/-! ## How a rule faults -/

/-- `Raises s i c`: a branch of the rule of `i` that raises `c` on the legal state `s`, for operands in range (R241). -/
inductive Raises (s : State) : Instr → FaultCode → Prop where
  | qEnq {b : Byte} (full : s.cfg.cqCapacity < s.cq.length + [b].length) : Raises s (.qEnq b) .cqOverflow
  | qDeq (hq : s.cq = []) : Raises s .qDeq .cqUnderflow
  | cNext (hi : s.cs.idle = false) (hq : s.cq = []) : Raises s .cNext .cqUnderflow
  | cPrep2 {a v : Byte} (full : s.cfg.cqCapacity < s.cq.length + (frame2 a v).length) :
      Raises s (.cPrep2 a v) .cqOverflow
  | cPrep3 {a k v : Byte} (full : s.cfg.cqCapacity < s.cq.length + (frame3 a k v).length) :
      Raises s (.cPrep3 a k v) .cqOverflow
  | rOnEnd (hc : s.stagingComplete = true) (full : s.cfg.rxqCapacity ≤ s.rxq.length) : Raises s .rOnEnd .rxqOverflow
  | rTake (hq : s.rxq = []) : Raises s .rTake .rxqUnderflow
  | iArm (hst : ¬ s.iniState.armable = true) : Raises s .iArm .armBusy
  | iStep_dataOut {rx : Byte} (hst : s.iniState = .dataOut) (hi : s.cs.idle = false) (hq : s.cq = []) :
      Raises s (.iStep rx) .cqUnderflow
  | iStep_prepIn {rx : Byte} (hst : s.iniState = .prepIn) (short : s.cq.length < placeholders s) :
      Raises s (.iStep rx) .cqUnderflow
  | iStep_dataIn {rx : Byte} (hst : s.iniState = .dataIn) (hrh : s.rhSet = false) :
      Raises s (.iStep rx) .noResultHandler
  | sStop (hmode : s.cfg.rxMode = .queued) (hc : s.stagingComplete = true)
      (full : s.cfg.rxqCapacity ≤ s.rxq.length) : Raises s .sStop .rxqOverflow
  | sByteW {b : Byte} (hph : s.rsPhase = .data) (hmode : s.cfg.rxMode = .sync) (hh : s.chHandler = .none) :
      Raises s (.sByteW b) .noCmdHandler

/-! ## Every rule ends in one of these cases -/

/-- The outcome of a rule is one of the cases above. -/
def Explained (s : State) (i : Instr) : Attempt → Prop
  | .ok e => Completes s i e
  | .error c => Raises s i c

theorem legal_fieldCount {s : State} (h : s.legal = true) : s.cfg.fieldCount = 2 ∨ s.cfg.fieldCount = 3 :=
  ((Config.wf_iff _).1 (wf_of_legal h)).1

/-- The step of the initiator: each of the six states (R162 to R167). -/
theorem explained_iStep {s : State} (hl : s.legal = true) (rx : Byte) : Explained s (.iStep rx) (iStepBody rx s) := by
  have hf := legal_fieldCount hl
  cases hst : s.iniState with
  | addr =>
    rw [iStepBody_of_addr hst]
    cases hq : s.cq with
    | nil => rw [stepAddr_of_nil hq]; exact .iStep_addr_empty hst hq
    | cons a rest => rw [stepAddr_of_cons hq]; exact .iStep_addr hst hq
  | dataOut =>
    rw [iStepBody_of_dataOut hst]
    cases hi : s.cs.idle with
    | true => rw [stepDataOut_of_idle hi]; exact .iStep_dataOut_idle hst hi
    | false =>
      cases hq : s.cq with
      | nil => rw [stepDataOut_of_nil hi hq]; exact .iStep_dataOut hst hi hq
      | cons b rest => rw [stepDataOut_of_cons hi hq]; exact .iStep_dataOut hst hi hq
  | prepIn =>
    rw [iStepBody_of_prepIn hst]
    rcases Nat.lt_or_ge s.cq.length (placeholders s) with h | h
    · rw [stepPrepIn_of_short hf h]; exact .iStep_prepIn hst h
    · rw [stepPrepIn_of_enough hf h]; exact .iStep_prepIn hst h
  | dataIn =>
    rw [iStepBody_of_dataIn hst]
    cases hrh : s.rhSet with
    | true => rw [stepDataIn_of_handler hrh]; exact .iStep_dataIn hst hrh
    | false => rw [stepDataIn_of_no_handler hrh]; exact .iStep_dataIn hst hrh
  | stop => rw [iStepBody_of_stop hst]; exact .iStep_stop hst
  | done =>
    rw [iStepBody_of_done hst]
    by_cases hq : s.cq = []
    · rw [stepDone_of_nil hq]; exact .iStep_done_empty hst hq
    · rw [stepDone_of_ne_nil hq]; exact .iStep_done hst hq

/-- The end of a transaction: a completed staging command with or without room, or none to push (R142). -/
theorem callOnEnd_outcome (s : State) :
    (s.stagingComplete = true ∧ s.rxq.length < s.cfg.rxqCapacity ∧
      callOnEnd s = .ok { s with rxq := s.rxq ++ [⟨s.stAddr, s.stKind, s.stValue⟩], stValid := false }) ∨
    (s.stagingComplete = false ∧ callOnEnd s = .ok { s with stValid := false }) ∨
    (s.stagingComplete = true ∧ s.cfg.rxqCapacity ≤ s.rxq.length ∧ callOnEnd s = .error .rxqOverflow) := by
  cases hc : s.stagingComplete with
  | false => exact .inr (.inl ⟨rfl, callOnEnd_of_incomplete hc⟩)
  | true =>
    rcases Nat.lt_or_ge s.rxq.length s.cfg.rxqCapacity with h | h
    · exact .inl ⟨rfl, h, callOnEnd_of_room hc h⟩
    · exact .inr (.inr ⟨rfl, h, callOnEnd_of_full hc h⟩)

theorem explained_rOnEnd (s : State) : Explained s .rOnEnd (rOnEndBody s) := by
  obtain ⟨hc, room, h⟩ | ⟨hc, h⟩ | ⟨hc, full, h⟩ := callOnEnd_outcome s
  · rw [rOnEndBody_of_ok h]; exact .rOnEnd_push hc room
  · rw [rOnEndBody_of_ok h]; exact .rOnEnd_drop hc
  · rw [rOnEndBody_of_error h]; exact .rOnEnd hc full

theorem explained_sStop (s : State) : Explained s .sStop (sStopBody s) := by
  cases hmode : s.cfg.rxMode with
  | sync => rw [sStopBody_of_sync hmode]; exact .sStop_sync hmode
  | queued =>
    obtain ⟨hc, room, h⟩ | ⟨hc, h⟩ | ⟨hc, full, h⟩ := callOnEnd_outcome s
    · rw [sStopBody_of_ok hmode h]; exact .sStop_push hmode hc room
    · rw [sStopBody_of_ok hmode h]; exact .sStop_drop hmode hc
    · rw [sStopBody_of_error hmode h]; exact .sStop hmode hc full

/-- A write-direction byte: each phase, mode and handler kind (R182 to R184, R188). -/
theorem explained_sByteW (s : State) (b : Byte) : Explained s (.sByteW b) (sByteWBody b s) := by
  cases hph : s.rsPhase with
  | none => rw [sByteWBody_of_none hph]; exact .sByteW_none hph
  | addr =>
    rw [sByteWBody_of_addr hph]
    cases hmode : s.cfg.rxMode with
    | sync => rw [writeAddress_of_sync hmode]; exact .sByteW_addr_sync hph hmode
    | queued => rw [writeAddress_of_queued hmode]; exact .sByteW_addr_queued hph hmode
  | data =>
    rw [sByteWBody_of_data hph]
    cases hmode : s.cfg.rxMode with
    | queued => rw [writeData_of_queued hmode]; exact .sByteW_data_queued hph hmode
    | sync =>
      cases hh : s.chHandler with
      | none => rw [writeData_of_no_handler hmode hh]; exact .sByteW hph hmode hh
      | external => rw [writeData_of_external hmode hh]; exact .sByteW_data_external hph hmode hh
      | pwm =>
        obtain ⟨c, p, hpwm⟩ := pwmHandler_frame s.rsLocal b s
        rw [writeData_of_pwm hmode hh rfl, hpwm]
        exact .sByteW_data_pwm hph hmode hh hpwm

theorem explained_sByteR (s : State) (b : Byte) : Explained s (.sByteR b) (sByteRBody b s) := by
  cases hph : s.rsPhase with
  | none => rw [sByteRBody_of_none hph]; exact .sByteR_none hph
  | addr => rw [sByteRBody_of_addr hph]; exact .sByteR_addr hph
  | data => rw [sByteRBody_of_data hph]; exact .sByteR_data hph

theorem explained_prepare {s : State} {frame : List Byte} {i : Instr}
    (hroom : s.cq.length + frame.length ≤ s.cfg.cqCapacity →
      Completes s i (.silent { s with cq := s.cq ++ frame, cs := if s.prepRearms then .addrP else s.cs }))
    (hfull : s.cfg.cqCapacity < s.cq.length + frame.length → Raises s i .cqOverflow) :
    Explained s i (prepare frame s) := by
  cases h : prepare frame s with
  | ok e =>
    obtain ⟨room, rfl⟩ := prepare_ok h
    exact hroom room
  | error c =>
    obtain ⟨full, rfl⟩ := prepare_error h
    exact hfull full

/-- The operands in range stand for a value (R76), so the last branch of these rules is not met. -/
theorem wf_operand {c : Config} {i : Instr} (h : i.wf c = true) : inRange c i = true := by
  simp only [Instr.wf, Bool.and_eq_true] at h
  exact h.2

theorem explained_iSetRh {s : State} {x : Byte} (hw : Instr.wf s.cfg (.iSetRh x) = true) :
    Explained s (.iSetRh x) (iSetRhBody x s) := by
  have hrange : (bitOperand x).isSome = true := (bitOperand_isSome x).trans (wf_operand hw)
  obtain ⟨b, hb⟩ := Option.isSome_iff_exists.1 hrange
  simp only [iSetRhBody, hb]
  exact .iSetRh hb

theorem explained_sSetCh {s : State} {x : Byte} (hw : Instr.wf s.cfg (.sSetCh x) = true) :
    Explained s (.sSetCh x) (sSetChBody x s) := by
  have hrange : (handlerOperand x).isSome = true := (handlerOperand_isSome x).trans (wf_operand hw)
  obtain ⟨k, hk⟩ := Option.isSome_iff_exists.1 hrange
  simp only [sSetChBody, hk]
  exact .sSetCh hk

theorem explained_dSel {s : State} {x : Byte} (hw : Instr.wf s.cfg (.dSel x) = true) :
    Explained s (.dSel x) (dSelBody x s) := by
  have hrange : (channelOperand x).isSome = true := (channelOperand_isSome x).trans (wf_operand hw)
  obtain ⟨c, hc⟩ := Option.isSome_iff_exists.1 hrange
  simp only [dSelBody, hc]
  exact .dSel hc

theorem explained_dDuty {s : State} {x : Byte} (hw : Instr.wf s.cfg (.dDuty x) = true) :
    Explained s (.dDuty x) (dDutyBody x s) := by
  have hrange : (channelOperand x).isSome = true := (channelOperand_isSome x).trans (wf_operand hw)
  obtain ⟨c, hc⟩ := Option.isSome_iff_exists.1 hrange
  simp only [dDutyBody, hc]
  exact .dDuty hc

theorem explained_body {i : Instr} {s : State} (hl : s.legal = true) (hw : i.wf s.cfg = true) :
    Explained s i (bodyOf i s) := by
  cases i with
  | qIsEmpty => exact .qIsEmpty
  | qEnq b =>
    rcases Nat.lt_or_ge s.cfg.cqCapacity (s.cq.length + [b].length) with h | h
    · simp only [bodyOf, qEnqBody, cqAppend_of_no_room h]; exact .qEnq h
    · simp only [bodyOf, qEnqBody, cqAppend_of_room h]; exact .qEnq h
  | qDeq =>
    cases hq : s.cq with
    | nil => simp only [bodyOf, qDeqBody_of_nil hq]; exact .qDeq hq
    | cons b rest => simp only [bodyOf, qDeqBody_of_cons hq]; exact .qDeq hq
  | qReset => exact .qReset
  | cAvail =>
    by_cases hq : s.cq = []
    · simp only [bodyOf, cAvailBody_of_callAvail (callAvail_of_nil hq)]; exact .cAvail_empty hq
    · simp only [bodyOf, cAvailBody_of_callAvail (callAvail_of_ne_nil hq)]; exact .cAvail_waiting hq
  | cNext =>
    cases hi : s.cs.idle with
    | true => simp only [bodyOf, cNextBody_of_idle hi]; exact .cNext_idle hi
    | false =>
      cases hq : s.cq with
      | nil => simp only [bodyOf, cNextBody_of_nil hi hq]; exact .cNext hi hq
      | cons b rest => simp only [bodyOf, cNextBody_of_cons hi hq]; exact .cNext_byte hi hq
  | cSent => exact .cSent
  | cPrep2 a v => exact explained_prepare .cPrep2 .cPrep2
  | cPrep3 a k v => exact explained_prepare .cPrep3 .cPrep3
  | rOnAddr a => exact .rOnAddr
  | rOnData b => exact .rOnData
  | rOnEnd => exact explained_rOnEnd s
  | rHas => exact .rHas
  | rTake =>
    cases hq : s.rxq with
    | nil => simp only [bodyOf, rTakeBody_of_nil hq]; exact .rTake hq
    | cons c rest => simp only [bodyOf, rTakeBody_of_cons hq]; exact .rTake hq
  | iArm =>
    by_cases hst : s.iniState.armable = true
    · simp only [bodyOf, iArmBody_of_armable hst]; exact .iArm hst
    · simp only [bodyOf, iArmBody_of_not_armable hst]; exact .iArm hst
  | iStep rx => exact explained_iStep hl rx
  | iSetRh x => exact explained_iSetRh hw
  | sStart => exact .sStart
  | sStop => exact explained_sStop s
  | sByteW b => exact explained_sByteW s b
  | sByteR b => exact explained_sByteR s b
  | sExpose l v => exact .sExpose
  | sSetCh x => exact explained_sSetCh hw
  | dSel x => exact explained_dSel hw
  | dSetP v => exact .dSetP
  | dTick => exact .dTick
  | dDuty x => exact explained_dDuty hw
  | xReinit => exact .xReinit

theorem completes_of_body {i : Instr} {s : State} {e : Effect} (hl : s.legal = true) (hw : i.wf s.cfg = true)
    (h : bodyOf i s = .ok e) : Completes s i e := by
  have hexp := explained_body hl hw
  rwa [h] at hexp

theorem raises_of_body {i : Instr} {s : State} {c : FaultCode} (hl : s.legal = true) (hw : i.wf s.cfg = true)
    (h : bodyOf i s = .error c) : Raises s i c := by
  have hexp := explained_body hl hw
  rwa [h] at hexp

/-! ## A property every operation keeps -/

/-- A property of states that holds before the operation, that taking a fault keeps, and that every completion of the
operation's rule gives, holds after it. -/
theorem exec_keeps {P : State → Prop} {i : Instr} {s t : State} (h : exec i s = .next t) (hs : P s)
    (hraise : ∀ c w, P (s.raise c w))
    (hrule : s.legal = true → i.wf s.cfg = true → ∀ e, Completes s i e → P e.commit) : P t := by
  obtain ⟨hl, ⟨-, rfl⟩ | ⟨-, hw, e, he, rfl⟩ | ⟨-, -, c, -, rfl⟩ | ⟨-, -, rfl⟩⟩ := exec_next h
  · exact hs
  · exact hrule hl hw e (completes_of_body hl hw he)
  · exact hraise c _
  · exact hraise _ _

end Sys2Proof.Machine
end

section
/-! The invariants of the state record (10_state.md R20 to R33, 41_codec.md R127): each part is kept by every
completion, and the statements O50, O51 and O52. -/

namespace Sys2Proof.Machine

open Sys2Proof.Claims

/-! ## Legal values (R20) -/

theorem legal_with_cq {s : State} (h : s.legal = true) {q : List Byte} (hq : q.length ≤ s.cfg.cqCapacity) :
    State.legal { s with cq := q } = true := by
  obtain ⟨hw, -, hrest⟩ := (legal_iff s).1 h
  exact (legal_iff _).2 ⟨hw, hq, hrest⟩

theorem legal_with_rxq {s : State} (h : s.legal = true) {q : List Command} (hq : q.length ≤ s.cfg.rxqCapacity) :
    State.legal { s with rxq := q } = true := by
  obtain ⟨hw, hcq, -, hrest⟩ := (legal_iff s).1 h
  exact (legal_iff _).2 ⟨hw, hcq, hq, hrest⟩

theorem legal_with_pointers {s : State} (h : s.legal = true) {l p : Byte} (hl : l.toNat ≤ s.cfg.lmask)
    (hp : p.toNat ≤ s.cfg.lmask) : State.legal { s with rsLocal := l, rsRdptr := p } = true := by
  obtain ⟨hw, hcq, hrxq, -, -, hregs⟩ := (legal_iff s).1 h
  exact (legal_iff _).2 ⟨hw, hcq, hrxq, hl, hp, hregs⟩

theorem legal_cq_tail {s : State} (h : s.legal = true) {b : Byte} {rest : List Byte} (hq : s.cq = b :: rest) :
    State.legal { s with cq := rest } = true := by
  obtain ⟨-, hcq, -⟩ := (legal_iff s).1 h
  rw [hq] at hcq
  exact legal_with_cq h (Nat.le_of_succ_le hcq)

theorem legal_rxq_push {s : State} (h : s.legal = true) (c : Command) (room : s.rxq.length < s.cfg.rxqCapacity) :
    State.legal { s with rxq := s.rxq ++ [c] } = true :=
  legal_with_rxq h (by simpa using room)

/-- The queues grow only into room, the pointers are local sub-addresses, and the table keeps its length. -/
theorem completes_legal {i : Instr} {s : State} {e : Effect} (hl : s.legal = true) (h : Completes s i e) :
    e.commit.legal = true := by
  obtain ⟨hw, hcq, hrxq, hlocal, hptr, hregs⟩ := (legal_iff s).1 hl
  have hzero : (0 : Byte).toNat ≤ s.cfg.lmask := Nat.zero_le _
  cases h with
  | qEnq room => exact legal_with_cq hl (by simpa using room)
  | cPrep2 room => exact legal_with_cq hl (by simpa using room)
  | cPrep3 room => exact legal_with_cq hl (by simpa using room)
  | qReset => exact legal_with_cq hl (Nat.zero_le _)
  | qDeq hq => exact legal_cq_tail hl hq
  | cNext_byte _ hq => exact legal_cq_tail hl hq
  | iStep_addr _ hq => exact legal_cq_tail hl hq
  | iStep_dataOut _ _ hq => exact legal_cq_tail hl hq
  | iStep_prepIn _ _ => exact legal_with_cq hl ((List.drop_sublist _ _).length_le.trans hcq)
  | rOnEnd_push _ room => exact legal_rxq_push hl _ room
  | sStop_push _ _ room => exact legal_rxq_push hl _ room
  | rTake hq =>
    rw [hq] at hrxq
    exact legal_with_rxq hl (Nat.le_of_succ_le hrxq)
  | sStart => exact legal_with_pointers hl hzero hzero
  | sByteW_addr_sync _ _ => exact legal_with_pointers hl (decodeLocal_le_lmask hw _) hptr
  | sByteW_addr_queued _ _ => exact legal_with_pointers hl (decodeLocal_le_lmask hw _) hptr
  | sByteR_addr _ => exact legal_with_pointers hl (decodeLocal_le_lmask hw _) (decodeLocal_le_lmask hw _)
  | sByteR_data _ => exact legal_with_pointers hl hlocal (nextEntry_le_lmask hl)
  | sExpose => exact (legal_iff _).2 ⟨hw, hcq, hrxq, hlocal, hptr, (regWrite_length _ _ s).trans hregs⟩
  | xReinit => exact legal_reinitialized (s := s) hl
  | _ => exact hl

/-- No operation leads from a legal state to an illegal one. -/
theorem exec_keeps_legal {i : Instr} {s t : State} (h : exec i s = .next t) : t.legal = true := by
  obtain ⟨hl, -⟩ := exec_next h
  exact exec_keeps (P := fun u => u.legal = true) h hl (fun _ _ => hl) (fun _ _ _ => completes_legal hl)

/-- An operation that leaves no fault leaves a ready state. -/
theorem ready_of_exec {i : Instr} {s t : State} (h : exec i s = .next t) (ht : t.fault = none) : t.Ready :=
  ⟨exec_keeps_legal h, ht⟩

/-! ## The field position (R22, R127 (c)) -/

/-- KIND_P comes after ADDR_P in a 3-byte frame only. -/
theorem FieldPos.fieldCount_of_advance_kindP {n : Nat} {p : FieldPos} (h : p.advance n = .kindP) : n = 3 := by
  cases p with
  | addrP =>
    by_contra hn
    simp [FieldPos.advance, hn] at h
  | noCmd | kindP | valueP | complete => cases h

/-- No removal leads back to NOCMD. -/
theorem FieldPos.advance_eq_noCmd {n : Nat} {p : FieldPos} (h : p.advance n = .noCmd) : p = .noCmd := by
  cases p with
  | noCmd => rfl
  | addrP => by_cases hn : n = 3 <;> simp [FieldPos.advance, hn] at h
  | kindP | valueP | complete => cases h

theorem FieldPos.fieldCount_of_advanceBy_kindP {n k : Nat} {p : FieldPos} (hp : p = .kindP → n = 3)
    (h : advanceBy n k p = .kindP) : n = 3 := by
  induction k generalizing p with
  | zero => exact hp h
  | succ k ih => exact ih FieldPos.fieldCount_of_advance_kindP h

theorem FieldPos.advanceBy_eq_noCmd {n k : Nat} {p : FieldPos} (h : advanceBy n k p = .noCmd) : p = .noCmd := by
  induction k generalizing p with
  | zero => exact h
  | succ k ih => exact FieldPos.advance_eq_noCmd (ih h)

theorem FieldPos.rearmed_ne_noCmd (p : FieldPos) : p.rearmed ≠ .noCmd := by
  cases p <;> simp [FieldPos.rearmed]

theorem FieldPos.rearmed_eq_kindP {p : FieldPos} (h : p.rearmed = .kindP) : p = .kindP := by
  cases p <;> simp [FieldPos.rearmed] at h ⊢

theorem completes_kindLegal {i : Instr} {s : State} {e : Effect} (hk : s.KindLegal) (h : Completes s i e) :
    e.commit.KindLegal := by
  have hprep : (if s.prepRearms then FieldPos.addrP else s.cs) = .kindP → s.cfg.fieldCount = 3 := by
    split
    · exact nofun
    · exact hk
  cases h with
  | cAvail_waiting _ => exact fun h => hk (FieldPos.rearmed_eq_kindP h)
  | iStep_done _ _ => exact fun h => hk (FieldPos.rearmed_eq_kindP h)
  | cNext_byte _ _ => exact FieldPos.fieldCount_of_advance_kindP
  | iStep_addr _ _ => exact FieldPos.fieldCount_of_advance_kindP
  | iStep_dataOut _ _ _ => exact FieldPos.fieldCount_of_advance_kindP
  | iStep_prepIn _ _ => exact FieldPos.fieldCount_of_advanceBy_kindP hk
  | cPrep2 _ => exact hprep
  | cPrep3 _ => exact hprep
  | xReinit => exact nofun
  | _ => exact hk

/-- The step in ADDR leaves NOCMD with the state ADDR, and the other states are left with NOCMD left already. -/
theorem completes_noCmdIdle {i : Instr} {s : State} {e : Effect} (hn : s.NoCmdIdle) (h : Completes s i e) :
    e.commit.NoCmdIdle := by
  have hprep : (if s.prepRearms then FieldPos.addrP else s.cs) = .noCmd → s.iniState = .addr := by
    split
    · exact nofun
    · exact hn
  have hbusy (hne : s.iniState ≠ .addr) : s.cs ≠ .noCmd := mt hn hne
  cases h with
  | cAvail_waiting _ => exact fun h => absurd h s.cs.rearmed_ne_noCmd
  | cNext_byte _ _ => exact fun h => hn (FieldPos.advance_eq_noCmd h)
  | cPrep2 _ => exact hprep
  | cPrep3 _ => exact hprep
  | iArm _ => exact fun _ => rfl
  | iStep_addr _ _ => exact fun h => absurd (FieldPos.advance_eq_noCmd h) s.cs.rearmed_ne_noCmd
  | iStep_dataOut_idle hst _ => exact fun h => absurd h (hbusy (by simp [hst]))
  | iStep_dataOut _ hi _ =>
    exact fun h => absurd (FieldPos.advance_eq_noCmd h) (s.cs.idle_eq_false_iff.1 hi).1
  | iStep_prepIn hst _ => exact fun h => absurd (FieldPos.advanceBy_eq_noCmd h) (hbusy (by simp [hst]))
  | iStep_dataIn hst _ => exact fun h => absurd h (hbusy (by simp [hst]))
  | iStep_stop hst => exact fun h => absurd h (hbusy (by simp [hst]))
  | iStep_done_empty _ _ => exact fun _ => rfl
  | iStep_done _ _ => exact fun _ => rfl
  | xReinit => exact fun _ => rfl
  | _ => exact hn

/-! ## The invariant of every step -/

theorem exec_keeps_inv {i : Instr} {s t : State} (h : exec i s = .next t) (hs : s.Inv) : t.Inv := by
  obtain ⟨hl, hk, hn⟩ := hs
  exact exec_keeps h ⟨hl, hk, hn⟩ (fun _ _ => ⟨hl, hk, hn⟩)
    (fun _ _ e he => ⟨completes_legal hl he, completes_kindLegal hk he, completes_noCmdIdle hn he⟩)

/-- Settles O50: a step waits, performs an operation, which keeps the invariant, or records the fault of an illegal
word. -/
theorem legalInvariantIsKeptByEveryStep : Obligations.LegalInvariantIsKeptByEveryStep := by
  intro s t hs hstep
  obtain ⟨-, rfl⟩ | ⟨w, rest, -, ⟨i, hi⟩ | rfl | rfl⟩ := step_next hstep
  · exact hs
  · exact exec_keeps_inv (s := { s with ops := rest }) hi hs
  · exact hs
  · exact hs

/-- Settles O51: on a legal state the interface refuses nothing. -/
theorem legalStateAlwaysSteps : Obligations.LegalStateAlwaysSteps := by
  intro s hl
  cases hops : s.ops with
  | nil => exact ⟨s, step_of_no_word hops⟩
  | cons w rest =>
    rw [step_eq_atInterface hops]
    exact atInterface_total (s := { s with ops := rest }) hl w (wordRule w)

theorem exec_keeps_cfg_ops {i : Instr} {s t : State} (h : exec i s = .next t) : t.cfg = s.cfg ∧ t.ops = s.ops := by
  obtain ⟨-, ⟨-, rfl⟩ | ⟨-, -, e, he, rfl⟩ | ⟨-, -, c, -, rfl⟩ | ⟨-, -, rfl⟩⟩ := exec_next h
  · exact ⟨rfl, rfl⟩
  · obtain ⟨-, hcfg, hops, -⟩ := body_frame he
    exact ⟨hcfg, hops⟩
  · exact ⟨rfl, rfl⟩
  · exact ⟨rfl, rfl⟩

/-- Settles O52: no rule writes the configuration or the issued words, and a step takes one word. -/
theorem configurationNeverChanges : Obligations.ConfigurationNeverChanges := by
  refine ⟨fun i s t => exec_keeps_cfg_ops, fun s t hstep => ?_⟩
  obtain ⟨hops, rfl⟩ | ⟨w, rest, hops, ⟨i, hi⟩ | rfl | rfl⟩ := step_next hstep
  · simp [hops]
  · rw [hops]
    exact exec_keeps_cfg_ops hi
  · simp [hops]
  · simp [hops]

end Sys2Proof.Machine
end

section
/-! The codec and the queue (41_codec.md R127, 40_queue.md R104): removals, re-arms and appended frames keep the queue
aligned with the field position, what leaves the queue is what entered it, and the statements O15, O21 and O22. -/

namespace Sys2Proof.Machine

open Sys2Proof.Claims

/-! ## Alignment under the changes of the queue and the field position -/

theorem FieldPos.advance_of_idle {p : FieldPos} (hi : p.idle = true) (n : Nat) : p.advance n = p := by
  rcases p.idle_iff.1 hi with rfl | rfl <;> rfl

/-- Each removal leaves one field fewer, down to none. -/
theorem FieldPos.remaining_advanceBy {n : Nat} (hf : n = 2 ∨ n = 3) (k : Nat) (p : FieldPos) :
    (advanceBy n k p).remaining n = p.remaining n - k := by
  induction k generalizing p with
  | zero => rfl
  | succ k ih =>
    rw [advanceBy, ih]
    cases hi : p.idle with
    | true => rw [advance_of_idle hi, remaining_of_idle hi, Nat.zero_sub, Nat.zero_sub]
    | false => rw [remaining_eq_advance_add_one hf hi, Nat.add_sub_add_right]

/-- `k` bytes of the current command leave the queue, and the position goes `k` fields on. -/
theorem aligned_removed {s : State} (hf : s.cfg.fieldCount = 2 ∨ s.cfg.fieldCount = 3) (h : s.Aligned) {k : Nat}
    (hk : k ≤ s.cs.remaining s.cfg.fieldCount) :
    State.Aligned { s with cq := s.cq.drop k, cs := advanceBy s.cfg.fieldCount k s.cs } := by
  obtain ⟨hle, hmod⟩ := h
  have hrem := FieldPos.remaining_advanceBy hf k s.cs
  have hmod' : s.cq.length - k ≡ s.cs.remaining s.cfg.fieldCount - k [MOD s.cfg.fieldCount] := by
    refine Nat.ModEq.add_right_cancel' k ?_
    rwa [Nat.sub_add_cancel (hk.trans hle), Nat.sub_add_cancel hk]
  refine ⟨?_, ?_⟩
  · simp only [hrem, List.length_drop]
    exact Nat.sub_le_sub_right hle k
  · simp only [hrem, List.length_drop]
    exact hmod'

/-- One byte of the current command, as `C.NEXT` removes it. -/
theorem aligned_advance {s : State} (hf : s.cfg.fieldCount = 2 ∨ s.cfg.fieldCount = 3) (h : s.Aligned)
    (hi : s.cs.idle = false) {b : Byte} {rest : List Byte} (hq : s.cq = b :: rest) :
    State.Aligned { s with cq := rest, cs := s.cs.advance s.cfg.fieldCount } := by
  have hone : 1 ≤ s.cs.remaining s.cfg.fieldCount := by
    rw [FieldPos.remaining_eq_advance_add_one hf hi]
    exact Nat.le_add_left _ _
  have hrest : s.cq.drop 1 = rest := by rw [hq]; rfl
  have halign := aligned_removed hf h hone
  rwa [hrest] at halign

/-- The queue holds whole frames when the codec is idle. -/
theorem aligned_dvd_of_idle {s : State} (h : s.Aligned) (hi : s.cs.idle = true) :
    s.cfg.fieldCount ∣ s.cq.length := by
  obtain ⟨-, hmod⟩ := h
  rw [FieldPos.remaining_of_idle hi, Nat.zero_mod] at hmod
  exact Nat.dvd_of_mod_eq_zero hmod

/-- An idle codec over a non-empty queue has a whole frame before it. -/
theorem aligned_rearmed {s : State} (h : s.Aligned) (hq : s.cq ≠ []) :
    State.Aligned { s with cs := s.cs.rearmed } := by
  cases hi : s.cs.idle with
  | false => rwa [FieldPos.rearmed_of_midCommand hi]
  | true =>
    have hdvd := aligned_dvd_of_idle h hi
    rw [FieldPos.rearmed_of_idle hi]
    exact ⟨Nat.le_of_dvd (List.length_pos_iff.2 hq) hdvd,
      (Nat.mod_eq_zero_of_dvd hdvd).trans (Nat.mod_self _).symm⟩

/-- A frame appended leaves the current command in front of it, or is the current command. -/
theorem aligned_prepared {s : State} (h : s.Aligned) {frame : List Byte} (hlen : frame.length = s.cfg.fieldCount) :
    State.Aligned { s with cq := s.cq ++ frame, cs := if s.prepRearms then .addrP else s.cs } := by
  obtain ⟨hle, hmod⟩ := id h
  have hlength : (s.cq ++ frame).length = s.cq.length + s.cfg.fieldCount := by rw [List.length_append, hlen]
  cases hr : s.prepRearms with
  | false => exact ⟨by simp only [hlength]; exact Nat.le_add_right_of_le hle, by simpa [hlength] using hmod⟩
  | true =>
    have hdvd : s.cfg.fieldCount ∣ s.cq.length := by
      rw [prepRearms_iff, ← or_assoc, ← FieldPos.idle_iff] at hr
      rcases hr with hi | hq
      · exact aligned_dvd_of_idle h hi
      · simp [hq]
    refine ⟨by simp only [hlength]; exact Nat.le_add_left _ _, ?_⟩
    simp only [hlength, Nat.add_mod_right, Nat.mod_eq_zero_of_dvd hdvd]
    exact (Nat.mod_self _).symm

/-! ## Alignment under every operation (R127) -/

theorem completes_aligned {i : Instr} {s : State} {e : Effect} (hl : s.legal = true) (hw : i.wf s.cfg = true)
    (hraw : ¬ RawQueueOp i) (ha : s.Aligned) (h : Completes s i e) : e.commit.Aligned := by
  have hf := legal_fieldCount hl
  cases h with
  | qEnq _ => exact absurd (.inl ⟨_, rfl⟩) hraw
  | qDeq _ => exact absurd (.inr (.inl rfl)) hraw
  | qReset => exact absurd (.inr (.inr rfl)) hraw
  | cAvail_waiting hq => exact aligned_rearmed ha hq
  | cNext_byte hi hq => exact aligned_advance hf ha hi hq
  | cPrep2 _ => exact aligned_prepared ha ((wf_cPrep2_iff _ _ _).1 hw).symm
  | cPrep3 _ => exact aligned_prepared ha ((wf_cPrep3_iff _ _ _ _).1 hw).symm
  | iStep_addr _ hq =>
    have hne : s.cq ≠ [] := by simp [hq]
    exact aligned_advance (s := { s with cs := s.cs.rearmed }) hf (aligned_rearmed ha hne) s.cs.rearmed_idle hq
  | iStep_dataOut _ hi hq => exact aligned_advance hf ha hi hq
  | iStep_prepIn _ _ => exact aligned_removed hf ha (Nat.min_le_left _ _)
  | iStep_done _ hq => exact aligned_rearmed ha hq
  | xReinit => exact ⟨Nat.zero_le _, rfl⟩
  | _ => exact ha

/-- Settles O21: the queue and the position change together, by the removals, re-arms and frames above. -/
theorem codecStaysAlignedWithTheQueue : Obligations.CodecStaysAlignedWithTheQueue := by
  intro i s t hexec hraw hk ha
  exact exec_keeps (P := fun u => u.KindLegal ∧ u.Aligned) hexec ⟨hk, ha⟩ (fun _ _ => ⟨hk, ha⟩)
    (fun hl hw e he => ⟨completes_kindLegal hk he, completes_aligned hl hw hraw ha he⟩)

/-- Settles O22: the step underflows only when the queue holds fewer bytes than it removes of the current command, and
an aligned queue holds all of them. -/
theorem alignedInitiatorNeverUnderflows : Obligations.AlignedInitiatorNeverUnderflows := by
  intro s t rx hs _ ⟨hle, _⟩ hexec f hf hcode
  obtain ⟨hl, -⟩ := exec_next hexec
  obtain ⟨-, ⟨hw, herr⟩ | ⟨hw, -⟩⟩ := exec_faulted hexec hs hf
  · have hraise := raises_of_body hl hw herr
    rw [hcode] at hraise
    cases hraise with
    | iStep_dataOut _ hi hq =>
      rw [FieldPos.remaining_eq_advance_add_one (legal_fieldCount hl) hi, hq] at hle
      exact absurd hle (Nat.not_succ_le_zero _)
    | iStep_prepIn _ short =>
      have hplace : placeholders s ≤ s.cs.remaining s.cfg.fieldCount := Nat.min_le_left _ _
      exact absurd (hplace.trans hle) (Nat.not_le.2 short)
  · cases hw

/-! ## The FIFO law (R104) -/

/-- The byte an operation returned is the last of the observations. -/
theorem returnedByte_observing (s : State) (es : List OutEvent) (b : Byte) :
    returnedByte (s.observing es (.byte b)) = [b] := by
  simp [returnedByte]

/-- One operation of the law: what the queue held and what is appended is what is removed and what the queue holds. -/
theorem completes_fifo {i : Instr} {s : State} {e : Effect} (hi : FifoOp i) (h : Completes s i e) :
    s.cq ++ appendedBytes i = removedBytes i s e.commit ++ e.commit.cq := by
  obtain ⟨b, rfl⟩ | rfl | ⟨a, v, rfl⟩ | ⟨a, k, v, rfl⟩ | rfl := hi
  · cases h
    rfl
  · cases h with
    | qDeq hq => simp [removedBytes, appendedBytes, returnedByte_observing, hq]
  · cases h
    rfl
  · cases h
    rfl
  · cases h with
    | cNext_idle hidle => simp [removedBytes, appendedBytes, hidle]
    | cNext_byte hmid hq => simp [removedBytes, appendedBytes, returnedByte_observing, hmid, hq]

/-- R243: a run on a faulted block changes nothing. -/
theorem execAll_faulted {s : State} (hl : s.legal = true) (hf : s.fault.isSome = true) (is : List Instr) :
    execAll is s = .next s := by
  induction is with
  | nil => rfl
  | cons i is ih => rw [execAll_cons_of_next (exec_of_fault hl hf i), ih]

/-- A run that ends with no fault met none in its first operation. -/
theorem execAll_cons_next {i : Instr} {is : List Instr} {s t : State} (h : execAll (i :: is) s = .next t)
    (ht : t.fault = none) : ∃ u, exec i s = .next u ∧ u.fault = none ∧ execAll is u = .next t := by
  cases hu : exec i s with
  | next u =>
    rw [execAll_cons_of_next hu] at h
    refine ⟨u, rfl, ?_, h⟩
    by_contra hfault
    rw [execAll_faulted (exec_keeps_legal hu) (Option.isSome_iff_ne_none.2 hfault)] at h
    cases h
    exact hfault ht
  | fault r => nomatch r
  | refused r => simp [execAll, hu] at h

/-- Settles O15, by induction on the operations: each adds at the tail what it appends and takes at the head what it
removes. -/
theorem removedBytesAreTheAppendedBytesInOrder : Obligations.RemovedBytesAreTheAppendedBytesInOrder := by
  intro is
  induction is with
  | nil =>
    intro s t _ _ hrun _
    cases hrun
    simp [removedAll]
  | cons i is ih =>
    intro s t hops hs hrun ht
    obtain ⟨u, hu, hfault, hrest⟩ := execAll_cons_next hrun ht
    obtain ⟨hl, -⟩ := exec_next hu
    obtain ⟨hw, e, he, rfl⟩ := exec_completed hu hs hfault
    have hone := completes_fifo (hops i List.mem_cons_self) (completes_of_body hl hw he)
    have htail := ih e.commit t (fun j hj => hops j (List.mem_cons_of_mem i hj)) hfault hrest ht
    calc s.cq ++ (i :: is).flatMap appendedBytes
        = (s.cq ++ appendedBytes i) ++ is.flatMap appendedBytes := by rw [List.flatMap_cons, List.append_assoc]
      _ = removedBytes i s e.commit ++ (e.commit.cq ++ is.flatMap appendedBytes) := by rw [hone, List.append_assoc]
      _ = (removedBytes i s e.commit ++ removedAll is e.commit) ++ t.cq := by rw [htail, List.append_assoc]
      _ = removedAll (i :: is) s ++ t.cq := by simp only [removedAll, hu]

end Sys2Proof.Machine
end

section
/-! Faults, observations and writers (60_exceptions.md R241, 10_state.md R20, R39): read off the cases of every rule,
and the statements O11, O53 and O54. -/

namespace Sys2Proof.Machine

open Sys2Proof.Claims

/-- Settles O11: each code is raised by the branches of R241's row, and ILLEGAL_OP by the interface alone. -/
theorem faultCodesAreRaisedOnlyByTheirOperations : Obligations.FaultCodesAreRaisedOnlyByTheirOperations := by
  refine ⟨fun i s t ⟨c, w⟩ hexec hs ht => ?_, rfl, rfl, rfl, rfl, rfl, rfl, rfl, rfl⟩
  obtain ⟨hl, -⟩ := exec_next hexec
  obtain ⟨-, ⟨hw, herr⟩ | ⟨hw, rfl⟩⟩ := exec_faulted hexec hs ht
  · cases raises_of_body hl hw herr with
    | qEnq _ => exact .inl ⟨_, rfl⟩
    | qDeq _ => exact .inl rfl
    | cNext hi _ => exact .inr ⟨.inl rfl, hi⟩
    | cPrep2 _ => exact .inr (.inl ⟨_, _, rfl⟩)
    | cPrep3 _ => exact .inr (.inr ⟨_, _, _, rfl⟩)
    | rOnEnd _ _ => exact .inl rfl
    | rTake _ => rfl
    | iArm hst =>
      rw [IniState.armable_iff, not_or] at hst
      exact ⟨rfl, hst⟩
    | iStep_dataOut _ hi _ => exact .inr ⟨.inr ⟨_, rfl⟩, hi⟩
    | iStep_prepIn _ short =>
      refine .inr ⟨.inr ⟨_, rfl⟩, ?_⟩
      by_contra hidle
      have hzero : placeholders s = 0 := by
        rw [placeholders, FieldPos.remaining_of_idle (Bool.not_eq_false _ ▸ hidle), Nat.zero_min]
      exact Nat.not_lt_zero _ (hzero ▸ short)
    | iStep_dataIn hst hrh => exact ⟨⟨_, rfl⟩, hst, hrh⟩
    | sStop hmode _ _ => exact .inr ⟨rfl, hmode⟩
    | sByteW hph hmode hh => exact ⟨⟨_, rfl⟩, hph, hmode, hh⟩
  · exact hw

theorem completes_ret {i : Instr} {s : State} {e : Effect} (h : Completes s i e) :
    kindOfRet e.ret = returnsColumn i := by
  cases h <;> rfl

/-- Settles O53: a completion commits one observation, of its effect, and taking a fault commits none. -/
theorem operationAddsOneObservationOfItsKind : Obligations.OperationAddsOneObservationOfItsKind := by
  refine fun i s t hexec hs => ⟨fun ht => ?_, fun ht => ?_⟩
  · obtain ⟨hl, -⟩ := exec_next hexec
    obtain ⟨hw, e, he, rfl⟩ := exec_completed hexec hs ht
    obtain ⟨-, -, -, htrace⟩ := body_frame he
    exact ⟨e.events, e.ret, by rw [commit_trace, htrace], completes_ret (completes_of_body hl hw he)⟩
  · obtain ⟨f, hf⟩ := Option.ne_none_iff_exists'.1 ht
    obtain ⟨rfl, -⟩ := exec_faulted hexec hs hf
    rfl

/-- Settles O54: the effect of each case names the elements it writes, and the interface writes `fault` and the trace
alone. -/
theorem elementsChangeOnlyByTheirWriters : Obligations.ElementsChangeOnlyByTheirWriters := by
  intro i s t hexec
  obtain ⟨hl, ⟨-, rfl⟩ | ⟨-, hw, e, he, rfl⟩ | ⟨-, -, c, -, rfl⟩ | ⟨-, -, rfl⟩⟩ := exec_next hexec
  · simp
  · cases completes_of_body hl hw he <;>
      simp [callOnAddr, callOnData, regWrite, callSel, callSetP, ticked, reinitialized]
  · simp
  · simp

end Sys2Proof.Machine
end

section
/-! Elements no rule reads (10_state.md R27, 44_responder.md R190): a change of `rs_dir`, and in QUEUED mode of
`ch_handler`, goes through every shared operation and every rule, and the statements O55 and O56. -/

namespace Sys2Proof.Machine

open Sys2Proof.Claims

/-! ## Another direction or handler -/

/-- The state with the direction `d` and the command handler `h`, each as it was when `none` is given. -/
def retag (d : Option Direction) (h : Option HandlerKind) (s : State) : State :=
  { s with rsDir := d.getD s.rsDir, chHandler := h.getD s.chHandler }

/-- The effect with its state changed by `f`. -/
def Effect.onState (f : State → State) (e : Effect) : Effect := { e with st := f e.st }

section
variable (d : Option Direction) (h : Option HandlerKind) (s : State)

theorem cqAppend_retag (bs : List Byte) : cqAppend bs (retag d h s) = (cqAppend bs s).map (retag d h) := by
  by_cases hc : s.cq.length + bs.length > s.cfg.cqCapacity
  · rw [cqAppend_of_no_room (s := s) hc, cqAppend_of_no_room (s := retag d h s) hc]; rfl
  · rw [cqAppend_of_room (s := s) (Nat.not_lt.1 hc), cqAppend_of_room (s := retag d h s) (Nat.not_lt.1 hc)]; rfl

theorem cqRemove_retag : cqRemove (retag d h s) = (cqRemove s).map (Prod.map id (retag d h)) := by
  cases hq : s.cq with
  | nil => rw [cqRemove_of_nil hq, cqRemove_of_nil (s := retag d h s) hq]; rfl
  | cons b rest => rw [cqRemove_of_cons hq, cqRemove_of_cons (s := retag d h s) hq]; rfl

theorem callNext_retag : callNext (retag d h s) = (callNext s).map (Prod.map id (retag d h)) := by
  cases hi : s.cs.idle with
  | true => rw [callNext_of_idle hi, callNext_of_idle (s := retag d h s) hi]; rfl
  | false =>
    cases hq : s.cq with
    | nil => rw [callNext_of_nil hi hq, callNext_of_nil (s := retag d h s) hi hq]; rfl
    | cons b rest => rw [callNext_of_cons hi hq, callNext_of_cons (s := retag d h s) hi hq]; rfl

theorem callAvail_retag : callAvail (retag d h s) = Prod.map id (retag d h) (callAvail s) := by
  by_cases hq : s.cq = []
  · rw [callAvail_of_nil hq, callAvail_of_nil (s := retag d h s) hq]; rfl
  · rw [callAvail_of_ne_nil hq, callAvail_of_ne_nil (s := retag d h s) hq]; rfl

theorem discardPlaceholders_retag (n : Nat) :
    discardPlaceholders n (retag d h s) = (discardPlaceholders n s).map (retag d h) := by
  induction n generalizing s with
  | zero => rfl
  | succ n ih =>
    have hsent : (retag d h s).sent = s.sent := rfl
    simp only [discardPlaceholders, hsent, callNext_retag]
    split
    · exact ih s
    · cases callNext s with
      | error c => rfl
      | ok p => exact ih p.2

theorem callOnEnd_retag : callOnEnd (retag d h s) = (callOnEnd s).map (retag d h) := by
  cases hc : s.stagingComplete with
  | false => rw [callOnEnd_of_incomplete hc, callOnEnd_of_incomplete (s := retag d h s) hc]; rfl
  | true =>
    rcases Nat.lt_or_ge s.rxq.length s.cfg.rxqCapacity with hr | hr
    · rw [callOnEnd_of_room hc hr, callOnEnd_of_room (s := retag d h s) hc hr]; rfl
    · rw [callOnEnd_of_full hc hr, callOnEnd_of_full (s := retag d h s) hc hr]; rfl

/-! ## The rules that branch -/

theorem prepare_retag (frame : List Byte) :
    prepare frame (retag d h s) = (prepare frame s).map (Effect.onState (retag d h)) := by
  have hrearm : (retag d h s).prepRearms = s.prepRearms := rfl
  simp only [prepare, cqAppend_retag, hrearm]
  cases cqAppend frame s with
  | error c => rfl
  | ok t => cases s.prepRearms <;> rfl

theorem stepAddr_retag : stepAddr (retag d h s) = (stepAddr s).map (Effect.onState (retag d h)) := by
  cases hq : s.cq with
  | nil => rw [stepAddr_of_nil hq, stepAddr_of_nil (s := retag d h s) hq]; rfl
  | cons a rest => rw [stepAddr_of_cons hq, stepAddr_of_cons (s := retag d h s) hq]; rfl

theorem stepDataOut_retag : stepDataOut (retag d h s) = (stepDataOut s).map (Effect.onState (retag d h)) := by
  cases hi : s.cs.idle with
  | true => rw [stepDataOut_of_idle hi, stepDataOut_of_idle (s := retag d h s) hi]; rfl
  | false =>
    cases hq : s.cq with
    | nil => rw [stepDataOut_of_nil hi hq, stepDataOut_of_nil (s := retag d h s) hi hq]; rfl
    | cons b rest => rw [stepDataOut_of_cons hi hq, stepDataOut_of_cons (s := retag d h s) hi hq]; rfl

theorem stepPrepIn_retag : stepPrepIn (retag d h s) = (stepPrepIn s).map (Effect.onState (retag d h)) := by
  have hcfg : (retag d h s).cfg = s.cfg := rfl
  simp only [stepPrepIn, hcfg, discardPlaceholders_retag]
  cases discardPlaceholders (s.cfg.fieldCount - 1) s <;> rfl

theorem stepDataIn_retag (rx : Byte) :
    stepDataIn rx (retag d h s) = (stepDataIn rx s).map (Effect.onState (retag d h)) := by
  cases hr : s.rhSet with
  | true => rw [stepDataIn_of_handler hr, stepDataIn_of_handler (s := retag d h s) hr]; rfl
  | false => rw [stepDataIn_of_no_handler hr, stepDataIn_of_no_handler (s := retag d h s) hr]; rfl

theorem stepDone_retag : stepDone (retag d h s) = (stepDone s).map (Effect.onState (retag d h)) := by
  by_cases hq : s.cq = []
  · rw [stepDone_of_nil hq, stepDone_of_nil (s := retag d h s) hq]; rfl
  · rw [stepDone_of_ne_nil hq, stepDone_of_ne_nil (s := retag d h s) hq]; rfl

theorem iStepBody_retag (rx : Byte) :
    iStepBody rx (retag d h s) = (iStepBody rx s).map (Effect.onState (retag d h)) := by
  cases hst : s.iniState with
  | addr => rw [iStepBody_of_addr hst, iStepBody_of_addr (s := retag d h s) hst]; exact stepAddr_retag d h s
  | dataOut => rw [iStepBody_of_dataOut hst, iStepBody_of_dataOut (s := retag d h s) hst]; exact stepDataOut_retag d h s
  | prepIn => rw [iStepBody_of_prepIn hst, iStepBody_of_prepIn (s := retag d h s) hst]; exact stepPrepIn_retag d h s
  | dataIn => rw [iStepBody_of_dataIn hst, iStepBody_of_dataIn (s := retag d h s) hst]; exact stepDataIn_retag d h s rx
  | stop => rw [iStepBody_of_stop hst, iStepBody_of_stop (s := retag d h s) hst]; rfl
  | done => rw [iStepBody_of_done hst, iStepBody_of_done (s := retag d h s) hst]; exact stepDone_retag d h s

theorem sByteRBody_retag (b : Byte) : ∃ d', d'.isSome = d.isSome ∧
    sByteRBody b (retag d h s) = (sByteRBody b s).map (Effect.onState (retag d' h)) := by
  cases hph : s.rsPhase with
  | none => exact ⟨d, rfl, by rw [sByteRBody_of_none hph, sByteRBody_of_none (s := retag d h s) hph]; rfl⟩
  | addr =>
    refine ⟨d.map fun _ => .read, Option.isSome_map, ?_⟩
    rw [sByteRBody_of_addr hph, sByteRBody_of_addr (s := retag d h s) hph]
    cases d <;> rfl
  | data => exact ⟨d, rfl, by rw [sByteRBody_of_data hph, sByteRBody_of_data (s := retag d h s) hph]; rfl⟩

/-- A write-direction data byte reads the handler kind in SYNC mode only (R184). -/
theorem writeData_retag (hh : h = none ∨ s.cfg.rxMode = .queued) (b : Byte) :
    writeData b (retag d h s) = (writeData b s).map (Effect.onState (retag d h)) := by
  cases hmode : s.cfg.rxMode with
  | queued => rw [writeData_of_queued hmode, writeData_of_queued (s := retag d h s) hmode]; rfl
  | sync =>
    obtain rfl : h = none := hh.resolve_right (by simp [hmode])
    cases hc : s.chHandler with
    | none => rw [writeData_of_no_handler hmode hc, writeData_of_no_handler (s := retag d none s) hmode hc]; rfl
    | external => rw [writeData_of_external hmode hc, writeData_of_external (s := retag d none s) hmode hc]; rfl
    | pwm =>
      rw [writeData_of_pwm hmode hc rfl, writeData_of_pwm (s := retag d none s) hmode hc rfl]
      have hpwm : pwmHandler s.rsLocal b (retag d none s) = retag d none (pwmHandler s.rsLocal b s) := by
        unfold pwmHandler
        cases channelOperand s.rsLocal <;> rfl
      exact congrArg (fun t => Except.ok (Effect.emitting t [.cmd s.rsLocal b])) hpwm

theorem sByteWBody_retag (hh : h = none ∨ s.cfg.rxMode = .queued) (b : Byte) : ∃ d', d'.isSome = d.isSome ∧
    sByteWBody b (retag d h s) = (sByteWBody b s).map (Effect.onState (retag d' h)) := by
  cases hph : s.rsPhase with
  | none => exact ⟨d, rfl, by rw [sByteWBody_of_none hph, sByteWBody_of_none (s := retag d h s) hph]; rfl⟩
  | addr =>
    refine ⟨d.map fun _ => .write, Option.isSome_map, ?_⟩
    rw [sByteWBody_of_addr hph, sByteWBody_of_addr (s := retag d h s) hph]
    cases hmode : s.cfg.rxMode with
    | sync => rw [writeAddress_of_sync hmode, writeAddress_of_sync (s := retag d h s) hmode]; cases d <;> rfl
    | queued => rw [writeAddress_of_queued hmode, writeAddress_of_queued (s := retag d h s) hmode]; cases d <;> rfl
  | data =>
    refine ⟨d, rfl, ?_⟩
    rw [sByteWBody_of_data hph, sByteWBody_of_data (s := retag d h s) hph]
    exact writeData_retag d h s hh b

theorem sStopBody_retag : sStopBody (retag d h s) = (sStopBody s).map (Effect.onState (retag d h)) := by
  cases hmode : s.cfg.rxMode with
  | sync => rw [sStopBody_of_sync hmode, sStopBody_of_sync (s := retag d h s) hmode]; rfl
  | queued =>
    have hend := callOnEnd_retag d h s
    cases hc : callOnEnd s with
    | ok t =>
      rw [hc] at hend
      rw [sStopBody_of_ok hmode hc, sStopBody_of_ok (s := retag d h s) hmode hend]; rfl
    | error c =>
      rw [hc] at hend
      rw [sStopBody_of_error hmode hc, sStopBody_of_error (s := retag d h s) hmode hend]; rfl

/-! ## Every rule -/

/-- The rule of `i` goes through the change, or overwrites one of the two elements: an address byte, a start and a
re-initialization set the direction (R180, R183, R186, R220), and S.SETCH sets the handler (R190). -/
theorem bodyOf_retag (hh : h = none ∨ s.cfg.rxMode = .queued) (i : Instr) :
    ∃ d' h', d'.isSome = d.isSome ∧ h'.isSome = h.isSome ∧
      bodyOf i (retag d h s) = (bodyOf i s).map (Effect.onState (retag d' h')) := by
  have same (heq : bodyOf i (retag d h s) = (bodyOf i s).map (Effect.onState (retag d h))) :
      ∃ d' h', d'.isSome = d.isSome ∧ h'.isSome = h.isSome ∧
        bodyOf i (retag d h s) = (bodyOf i s).map (Effect.onState (retag d' h')) := ⟨d, h, rfl, rfl, heq⟩
  cases i with
  | qEnq b =>
    refine same ?_
    simp only [bodyOf, qEnqBody, cqAppend_retag]
    cases cqAppend [b] s <;> rfl
  | qDeq =>
    refine same ?_
    simp only [bodyOf, qDeqBody, cqRemove_retag]
    cases cqRemove s <;> rfl
  | cAvail =>
    refine same ?_
    simp only [bodyOf, cAvailBody, callAvail_retag]
    rfl
  | cNext =>
    refine same ?_
    simp only [bodyOf, cNextBody, callNext_retag]
    cases callNext s <;> rfl
  | cPrep2 a v => exact same (prepare_retag d h s _)
  | cPrep3 a k v => exact same (prepare_retag d h s _)
  | rOnEnd =>
    refine same ?_
    simp only [bodyOf, rOnEndBody, callOnEnd_retag]
    cases callOnEnd s <;> rfl
  | rTake =>
    refine same ?_
    cases hq : s.rxq with
    | nil => simp only [bodyOf, rTakeBody_of_nil hq, rTakeBody_of_nil (s := retag d h s) hq]; rfl
    | cons c rest => simp only [bodyOf, rTakeBody_of_cons hq, rTakeBody_of_cons (s := retag d h s) hq]; rfl
  | iArm =>
    refine same ?_
    by_cases hst : s.iniState.armable = true
    · simp only [bodyOf, iArmBody_of_armable hst, iArmBody_of_armable (s := retag d h s) hst]; rfl
    · simp only [bodyOf, iArmBody_of_not_armable hst, iArmBody_of_not_armable (s := retag d h s) hst]; rfl
  | iStep rx => exact same (iStepBody_retag d h s rx)
  | iSetRh x =>
    refine same ?_
    simp only [bodyOf, iSetRhBody]
    cases bitOperand x <;> rfl
  | sStart => exact ⟨d.map fun _ => .write, h, Option.isSome_map, rfl, by cases d <;> rfl⟩
  | sStop => exact same (sStopBody_retag d h s)
  | sByteW b =>
    obtain ⟨d', hd, heq⟩ := sByteWBody_retag d h s hh b
    exact ⟨d', h, hd, rfl, heq⟩
  | sByteR b =>
    obtain ⟨d', hd, heq⟩ := sByteRBody_retag d h s b
    exact ⟨d', h, hd, rfl, heq⟩
  | sSetCh x =>
    simp only [bodyOf, sSetChBody]
    cases handlerOperand x with
    | none => exact ⟨d, h, rfl, rfl, rfl⟩
    | some k => exact ⟨d, h.map fun _ => k, rfl, Option.isSome_map, by cases h <;> rfl⟩
  | dSel x =>
    refine same ?_
    simp only [bodyOf, dSelBody]
    cases channelOperand x <;> rfl
  | dDuty x =>
    refine same ?_
    simp only [bodyOf, dDutyBody]
    cases channelOperand x <;> rfl
  | xReinit => exact ⟨d.map fun _ => .write, h, Option.isSome_map, rfl, by cases d <;> rfl⟩
  | qIsEmpty | qReset | cSent | rOnAddr a | rOnData b | rHas | sExpose l v | dSetP v | dTick => exact same rfl

/-! ## Every operation -/

/-- The interface reads neither element: it refuses, waits, faults or completes as before the change. -/
theorem exec_retag (hh : h = none ∨ s.cfg.rxMode = .queued) (i : Instr) :
    ∃ d' h', d'.isSome = d.isSome ∧ h'.isSome = h.isSome ∧
      exec i (retag d h s) = mapNext (retag d' h') (exec i s) := by
  obtain ⟨d', h', hd, hh', hbody⟩ := bodyOf_retag d h s hh i
  have hwf : (retag d h s).cfg = s.cfg := rfl
  have hlegal : (retag d h s).legal = s.legal := rfl
  have hfault : (retag d h s).fault = s.fault := rfl
  simp only [exec_eq_perform, perform, atInterface, hwf, hlegal, hfault, hbody]
  split
  · split
    · split
      · exact ⟨d, h, rfl, rfl, rfl⟩
      · split
        · cases bodyOf i s with
          | ok e => exact ⟨d', h', hd, hh', rfl⟩
          | error c => exact ⟨d, h, rfl, rfl, rfl⟩
        · exact ⟨d, h, rfl, rfl, rfl⟩
    · exact ⟨d, h, rfl, rfl, rfl⟩
  · exact ⟨d, h, rfl, rfl, rfl⟩

end

/-! ## The statements -/

/-- Settles O55: a change of `rs_dir` alone goes through every operation as a change of `rs_dir`. -/
theorem directionIsReadByNoRule : Obligations.DirectionIsReadByNoRule := by
  intro i s d
  obtain ⟨d', h', hd, hh, hexec⟩ := exec_retag (some d) none s (.inl rfl) i
  obtain ⟨d', rfl⟩ := Option.isSome_iff_exists.1 hd
  obtain rfl := Option.isNone_iff_eq_none.1 (Option.isSome_eq_false_iff.1 hh)
  exact ⟨d', hexec⟩

/-- Settles O56: in QUEUED mode likewise a change of `ch_handler` alone. -/
theorem commandHandlerIsNotReadWhenQueued : Obligations.CommandHandlerIsNotReadWhenQueued := by
  intro i s h hqueued
  obtain ⟨d', h', hd, hh, hexec⟩ := exec_retag none (some h) s (.inr hqueued) i
  obtain rfl := Option.isNone_iff_eq_none.1 (Option.isSome_eq_false_iff.1 hd)
  obtain ⟨h', rfl⟩ := Option.isSome_iff_exists.1 hh
  exact ⟨h', hexec⟩

end Sys2Proof.Machine
end

section
/-! The idempotent operations (20_memory.md R58): a rule that leaves its own state when it is repeated, and the
statement O57. -/

namespace Sys2Proof.Machine

/-- A rule that completed completes again on the state it left, and leaves it. -/
def Repeats (i : Instr) : Prop :=
  ∀ (s : State) (e : Effect), bodyOf i s = .ok e → ∃ e', bodyOf i e.commit = .ok e' ∧ e'.st = e.commit

/-- A fault, or a fault recorded before, makes the repeat quiescent. -/
theorem exec_repeats {i : Instr} (hi : Repeats i) {s t : State} (h : exec i s = .next t) :
    ∃ u, exec i t = .next u ∧ { u with trace := t.trace } = t := by
  have hl : t.legal = true := exec_keeps_legal h
  obtain ⟨-, ⟨-, rfl⟩ | ⟨hs, hw, e, he, rfl⟩ | ⟨-, -, c, -, rfl⟩ | ⟨-, -, rfl⟩⟩ := exec_next h
  · exact ⟨t, h, rfl⟩
  · obtain ⟨hfault, hcfg, -, -⟩ := body_frame he
    obtain ⟨e', he', hst⟩ := hi s e he
    have hready : e.commit.Ready := ⟨hl, hfault.trans hs⟩
    have hwf : i.wf e.commit.cfg = true := by rwa [commit_cfg, hcfg]
    exact ⟨e'.commit, exec_ok hready hwf he', by rw [← hst]; rfl⟩
  · exact ⟨_, exec_of_fault hl rfl i, rfl⟩
  · exact ⟨_, exec_of_fault hl rfl i, rfl⟩

/-! ## The operations of R58 -/

/-- The state of a rule that writes what does not depend on what it wrote. -/
theorem repeats_of_silent {i : Instr} {f : State → State} (hbody : ∀ s, bodyOf i s = .ok (.silent (f s)))
    (hf : ∀ s, f ((f s).observing [] .none) = (f s).observing [] .none) : Repeats i := by
  intro s e he
  rw [hbody] at he
  cases he
  exact ⟨_, hbody _, hf s⟩

/-- A rule that returns a value and writes nothing. -/
theorem repeats_of_returning {i : Instr} {r : State → Ret} (hbody : ∀ s, bodyOf i s = .ok (.returning s (r s))) :
    Repeats i := by
  intro s e he
  rw [hbody] at he
  cases he
  exact ⟨_, hbody _, rfl⟩

/-- An operand that stands for no value has no completion to repeat. -/
theorem repeats_of_error {i : Instr} {c : FaultCode} (hbody : ∀ s, bodyOf i s = .error c) : Repeats i := by
  intro s e he
  rw [hbody] at he
  cases he

theorem repeats_dDuty (x : Byte) : Repeats (.dDuty x) := by
  cases hc : channelOperand x with
  | none => exact repeats_of_error (c := .illegalOp) fun s => by simp only [bodyOf, dDutyBody, hc]
  | some c =>
    exact repeats_of_returning (r := fun s => .byte (dutyOf c s)) fun s => by simp only [bodyOf, dDutyBody, hc]

theorem repeats_dSel (x : Byte) : Repeats (.dSel x) := by
  cases hc : channelOperand x with
  | none => exact repeats_of_error (c := .illegalOp) fun s => by simp only [bodyOf, dSelBody, hc]
  | some c => exact repeats_of_silent (f := callSel c) (fun s => by simp only [bodyOf, dSelBody, hc]) fun _ => rfl

theorem repeats_sSetCh (x : Byte) : Repeats (.sSetCh x) := by
  cases hk : handlerOperand x with
  | none => exact repeats_of_error (c := .illegalOp) fun s => by simp only [bodyOf, sSetChBody, hk]
  | some k =>
    exact repeats_of_silent (f := fun s => { s with chHandler := k }) (fun s => by simp only [bodyOf, sSetChBody, hk])
      fun _ => rfl

theorem repeats_iSetRh (x : Byte) : Repeats (.iSetRh x) := by
  cases hb : bitOperand x with
  | none => exact repeats_of_error (c := .illegalOp) fun s => by simp only [bodyOf, iSetRhBody, hb]
  | some b =>
    exact repeats_of_silent (f := fun s => { s with rhSet := b }) (fun s => by simp only [bodyOf, iSetRhBody, hb])
      fun _ => rfl

/-- The entry, written twice with one value. -/
theorem repeats_sExpose (l v : Byte) : Repeats (.sExpose l v) :=
  repeats_of_silent (f := regWrite l v) (fun _ => rfl) fun s => by simp [regWrite, State.observing]

theorem repeats_dSetP (v : Byte) : Repeats (.dSetP v) :=
  repeats_of_silent (f := callSetP v) (fun _ => rfl) fun s => by
    cases h : s.dsSel <;> simp [callSetP, State.observing, PerChannel.set, h]

/-- Settles O57: the rule of each operation of R58 leaves its own state when it is repeated. -/
theorem idempotentOperationsRepeat : Obligations.IdempotentOperationsRepeat := by
  intro i s t hi
  obtain rfl | rfl | rfl | ⟨c, rfl⟩ | rfl | rfl | ⟨l, v, rfl⟩ | ⟨c, rfl⟩ | ⟨v, rfl⟩ | ⟨x, rfl⟩ | ⟨x, rfl⟩ := hi
  · exact exec_repeats (repeats_of_returning fun _ => rfl)
  · exact exec_repeats (repeats_of_returning fun _ => rfl)
  · exact exec_repeats (repeats_of_returning fun _ => rfl)
  · exact exec_repeats (repeats_dDuty c)
  · exact exec_repeats (repeats_of_silent (fun _ => rfl) fun _ => rfl)
  · exact exec_repeats (repeats_of_silent (fun _ => rfl) fun _ => rfl)
  · exact exec_repeats (repeats_sExpose l v)
  · exact exec_repeats (repeats_dSel c)
  · exact exec_repeats (repeats_dSetP v)
  · exact exec_repeats (repeats_sSetCh x)
  · exact exec_repeats (repeats_iSetRh x)

end Sys2Proof.Machine
end

section
/-! A transaction of the initiator (43_initiator.md R171): the states a queued 2-byte command goes through on an idle
master, with the events of each step, and the statement O35. -/

namespace Sys2Proof.Machine

/-! ## An operation with its events -/

/-- The operation `i` on `s` emits `es`, returns nothing and leaves the ready state `t`. -/
structure Emits (i : Instr) (s : State) (es : List OutEvent) (t : State) : Prop where
  exec_eq : exec i s = .next t
  trace_eq : t.trace = s.trace ++ [⟨es, .none⟩]
  ready : t.Ready

theorem emits_of_exec {i : Instr} {s u : State} {es : List OutEvent} (h : exec i s = .next (u.observing es .none))
    (htrace : u.trace = s.trace) (hfault : u.fault = none) : Emits i s es (u.observing es .none) :=
  ⟨h, by rw [observing_trace, htrace], ready_of_exec h hfault⟩

/-! ## The states of the master -/

/-- After `C.PREP2 a, v` over an empty queue. -/
def prepared (a v : Byte) (s : State) : State := State.observing { s with cq := [a, v], cs := .addrP } [] .none

/-- After `I.ARM`. -/
def armed (s : State) : State := State.observing { s with iniState := .addr } [.busStart] .none

/-- After the step that places the address byte `a`. -/
def addressPlaced (a : Byte) (rest : List Byte) (s : State) : State :=
  State.observing { s with cq := rest, cs := .valueP, iniAddr := a,
                           iniState := if isReadAddress a then .prepIn else .dataOut } [.busTx a] .none

/-- After the step that places the value `v`, the last byte of the command. -/
def valuePlaced (v : Byte) (s : State) : State :=
  State.observing { s with cq := [], cs := .complete, iniState := .stop } [.busTx v] .none

/-- After the step that asserts the stop condition. -/
def stopAsserted (s : State) : State := State.observing { s with iniState := .done } [.busStop] .none

/-- After the step in DONE with nothing more queued. -/
def transactionDone (s : State) : State := State.observing { s with iniState := .addr } [] .none

/-- After the step in PREP_IN that discards the placeholder of a 2-byte read. -/
def readPrepared (s : State) : State :=
  State.observing { s with cq := [], cs := .complete, iniState := .dataIn } [.busRcen] .none

section
variable {s : State} (hs : s.Ready)
include hs

theorem emits_prepared (h2 : s.cfg.fieldCount = 2) (hq : s.cq = []) (a v : Byte) :
    Emits (.cPrep2 a v) s [] (prepared a v s) := by
  obtain ⟨-, -, hcap, -⟩ := (Config.wf_iff _).1 (ready_wf hs)
  have hroom : s.cq.length + 2 ≤ s.cfg.cqCapacity := by
    rw [hq, List.length_nil]
    omega
  obtain ⟨-, hprep⟩ := prepareTwoByteCommand s a v
  obtain ⟨hexec, -⟩ := hprep hs h2
  refine emits_of_exec ?_ rfl (ready_fault (s := s) hs)
  simpa [hq] using hexec hroom

theorem emits_armed (hst : s.iniState = .addr) : Emits .iArm s [.busStart] (armed s) := by
  obtain ⟨-, harm⟩ := armStartsFromAddrOrDoneOnly
  obtain ⟨hexec, -⟩ := harm s hs
  exact emits_of_exec (hexec (.inl hst)) rfl (ready_fault (s := s) hs)

theorem emits_addressPlaced (h2 : s.cfg.fieldCount = 2) (hst : s.iniState = .addr) (hcs : s.cs = .addrP) {a : Byte}
    {rest : List Byte} (hq : s.cq = a :: rest) (rx : Byte) :
    Emits (.iStep rx) s [.busTx a] (addressPlaced a rest s) := by
  obtain ⟨-, hplace⟩ := addressStepPlacesTheAddressByte s rx hs hst
  refine emits_of_exec ?_ rfl (ready_fault (s := s) hs)
  simpa [hcs, h2, FieldPos.advance, isReadAddress] using hplace a rest hq

theorem emits_valuePlaced (hst : s.iniState = .dataOut) (hcs : s.cs = .valueP) {v : Byte} (hq : s.cq = [v])
    (rx : Byte) : Emits (.iStep rx) s [.busTx v] (valuePlaced v s) := by
  obtain ⟨-, -, hplace⟩ := dataOutStepPlacesOneByte s rx hs (by simp [hcs]) hst
  refine emits_of_exec ?_ rfl (ready_fault (s := s) hs)
  simpa [hcs, FieldPos.advance] using hplace v [] (by simp [hcs]) hq

theorem emits_stopAsserted (hst : s.iniState = .stop) (rx : Byte) :
    Emits (.iStep rx) s [.busStop] (stopAsserted s) := by
  obtain ⟨hstop, -⟩ := stopAndDoneStepsEndTheTransaction s rx hs
  exact emits_of_exec (hstop hst) rfl (ready_fault (s := s) hs)

theorem emits_transactionDone (hst : s.iniState = .done) (hq : s.cq = []) (rx : Byte) :
    Emits (.iStep rx) s [] (transactionDone s) := by
  obtain ⟨-, hdone, -⟩ := stopAndDoneStepsEndTheTransaction s rx hs
  exact emits_of_exec (hdone hst hq) rfl (ready_fault (s := s) hs)

theorem emits_readPrepared (h2 : s.cfg.fieldCount = 2) (hst : s.iniState = .prepIn) (hcs : s.cs = .valueP) {p : Byte}
    (hq : s.cq = [p]) (rx : Byte) : Emits (.iStep rx) s [.busRcen] (readPrepared s) := by
  have hone : Claims.placeholders s = 1 := by simp [Claims.placeholders, hcs, h2, FieldPos.remaining]
  obtain ⟨hprep, -⟩ := prepareInStepDiscardsThePlaceholders s rx hs hst
  refine emits_of_exec ?_ rfl (ready_fault (s := s) hs)
  simpa [hone, hq, hcs, Claims.advanceBy, FieldPos.advance] using hprep (by simp [hone, hq])

end

/-! ## The six operations of a write -/

/-- The state in which the address byte of the command has been placed. -/
def addressed (a v : Byte) (s : State) : State := addressPlaced a [v] (armed (prepared a v s))

theorem addressed_iniState_write {a : Byte} (h : isReadAddress a = false) (v : Byte) (s : State) :
    (addressed a v s).iniState = .dataOut := if_neg (by simp [h])

theorem addressed_iniState_read {a : Byte} (h : isReadAddress a = true) (v : Byte) (s : State) :
    (addressed a v s).iniState = .prepIn := if_pos h

/-- The first three operations of a 2-byte command. -/
structure AddressRun (a v r : Byte) (s : State) : Prop where
  prep : Emits (.cPrep2 a v) s [] (prepared a v s)
  arm : Emits .iArm (prepared a v s) [.busStart] (armed (prepared a v s))
  address : Emits (.iStep r) (armed (prepared a v s)) [.busTx a] (addressed a v s)

theorem addressRun {s : State} (hs : s.Ready) (h2 : s.cfg.fieldCount = 2) (hq : s.cq = []) (hst : s.iniState = .addr)
    (a v r : Byte) : AddressRun a v r s := by
  have hprep := emits_prepared hs h2 hq a v
  have harm := emits_armed hprep.ready hst
  exact ⟨hprep, harm, emits_addressPlaced harm.ready h2 rfl rfl rfl r⟩

/-- The state at the end of a write. -/
def written (a v : Byte) (s : State) : State := transactionDone (stopAsserted (valuePlaced v (addressed a v s)))

theorem written_fault (a v : Byte) (s : State) : (written a v s).fault = s.fault := rfl
theorem written_initiatorEndsAt (a v : Byte) (s : State) : (written a v s).initiatorEndsAt none = true :=
  (State.initiatorEndsAt_none _).2 ⟨rfl, rfl⟩

/-- The last three operations of a write. -/
structure WriteRun (a v r2 r3 r4 : Byte) (s : State) : Prop where
  value : Emits (.iStep r2) (addressed a v s) [.busTx v] (valuePlaced v (addressed a v s))
  stop : Emits (.iStep r3) (valuePlaced v (addressed a v s)) [.busStop] (stopAsserted (valuePlaced v (addressed a v s)))
  done : Emits (.iStep r4) (stopAsserted (valuePlaced v (addressed a v s))) [] (written a v s)

theorem writeRun {a v r : Byte} {s : State} (h : AddressRun a v r s) (hwrite : isReadAddress a = false)
    (r2 r3 r4 : Byte) : WriteRun a v r2 r3 r4 s := by
  have hvalue := emits_valuePlaced h.address.ready (addressed_iniState_write hwrite v s) rfl rfl r2
  have hstop := emits_stopAsserted hvalue.ready rfl r3
  exact ⟨hvalue, hstop, emits_transactionDone hstop.ready rfl rfl r4⟩

theorem emitted_written (a v : Byte) (s : State) :
    emitted s (written a v s) = [.busStart, .busTx a, .busTx v, .busStop] := by
  simp [emitted, written, addressed, transactionDone, stopAsserted, valuePlaced, addressPlaced, armed, prepared]

/-- Settles O35: the six operations go through the states above. -/
theorem queuedWriteEmitsStartTwoBytesStop : Obligations.QueuedWriteEmitsStartTwoBytesStop := by
  intro s a v r1 r2 r3 r4 hs h2 hq hst ha
  have haddress := addressRun hs h2 hq hst a v r1
  have hwrite := writeRun haddress ha r2 r3 r4
  refine ⟨written a v s, ?_, emitted_written a v s, rfl, rfl, rfl, rfl, (written_fault a v s).trans (ready_fault hs),
    fun hph => ?_⟩
  · rw [execAll_cons_of_next haddress.prep.exec_eq, execAll_cons_of_next haddress.arm.exec_eq,
      execAll_cons_of_next haddress.address.exec_eq, execAll_cons_of_next hwrite.value.exec_eq,
      execAll_cons_of_next hwrite.stop.exec_eq, execAll_cons_of_next hwrite.done.exec_eq, execAll_nil]
  · exact ⟨(written_fault a v s).trans (ready_fault hs), written_initiatorEndsAt a v s, hph⟩

end Sys2Proof.Machine
end

section
/-! Two blocks over one bus (60_exceptions.md R255): a move of either block is an operation with its events, what S
receives for each event of M, the states the responder goes through, and the statements O58 and O59. -/

namespace Sys2Proof.Machine

/-! ## Moves (R255) -/

/-- An issued word is taken at once, so the block performs its operation. -/
theorem issue_encode {i : Instr} {s t : State} (h : exec i s = .next t) : issue (encode i) s = some t := by
  have hstep : step { s with ops := encode i :: s.ops } = .next t :=
    (step_of_decode rfl (decode_encode i)).trans h
  simp only [issue, hstep]

section
variable {m s t : State} {link : Link} {rx : Option Byte} {i : Instr} {es : List OutEvent}

theorem moveS_of_emits (h : Emits i s es t) :
    TwoNode.moveS (encode i) ⟨m, s, link, rx⟩ = some ⟨m, t, link, installed es rx⟩ := by
  simp only [TwoNode.moveS, issue_encode h.exec_eq, Option.map_some, emitted_of_trace h.trace_eq]

/-- Outside DATA_IN no operation carries a byte of S. -/
theorem dataInOperand_of_ne (h : m.iniState ≠ .dataIn) (w : Word) : dataInOperand w m = none := by
  unfold dataInOperand
  split
  · exact if_neg fun ⟨hst, _⟩ => h hst
  · rfl

theorem dataInOperand_of_dataIn (hs : m.Ready) (h : m.iniState = .dataIn) (rx : Byte) :
    dataInOperand (encode (.iStep rx)) m = some rx := by
  simp only [dataInOperand, decode_encode]
  exact if_pos ⟨h, ready_fault hs⟩

theorem moveM_of_emits (h : Emits i m es t) (hst : m.iniState ≠ .dataIn) :
    TwoNode.moveM (encode i) ⟨m, s, link, rx⟩ = TwoNode.deliverAll es ⟨t, s, link, rx⟩ := by
  simp [TwoNode.moveM, TwoNode.mayIssueM, dataInOperand_of_ne hst, issue_encode h.exec_eq,
    emitted_of_trace h.trace_eq]

/-- The step in DATA_IN carries the installed byte. -/
theorem moveM_dataIn {v : Byte} (h : Emits (.iStep v) m es t) (hm : m.Ready) (hst : m.iniState = .dataIn) :
    TwoNode.moveM (encode (.iStep v)) ⟨m, s, .matchedRead, some v⟩ =
      TwoNode.deliverAll es ⟨t, s, .matchedRead, none⟩ := by
  simp [TwoNode.moveM, TwoNode.mayIssueM, dataInOperand_of_dataIn hm hst, issue_encode h.exec_eq,
    emitted_of_trace h.trace_eq]

/-- With another byte it has no move (R290). -/
theorem moveM_dataIn_other {v b : Byte} (hm : m.Ready) (hst : m.iniState = .dataIn) (hne : b ≠ v) :
    TwoNode.moveM (encode (.iStep b)) ⟨m, s, .matchedRead, some v⟩ = none := by
  simp [TwoNode.moveM, TwoNode.mayIssueM, dataInOperand_of_dataIn hm hst, hne.symm]

theorem run_master {w : Word} {y z : TwoNode} (h : y.moveM w = some z) (rest : List (Node × Word)) :
    TwoNode.run ((.master, w) :: rest) y = TwoNode.run rest z := by
  simp only [TwoNode.run, h]

/-! ## Delivery of M's events (R255) -/

theorem deliverAll_one {e : OutEvent} {y z : TwoNode} (h : y.deliver e = some z) :
    TwoNode.deliverAll [e] y = some z := by
  simp only [TwoNode.deliverAll, h]

theorem deliver_busStart (h : Emits .sStart s es t) :
    TwoNode.deliver ⟨m, s, link, rx⟩ .busStart = some ⟨m, t, .started, none⟩ := by
  simp only [TwoNode.deliver, moveS_of_emits h, Option.map_some]

theorem deliver_address_write {b : Byte} (hmatch : addressMatches s.cfg b = true) (hdir : isReadAddress b = false)
    (h : Emits (.sByteW b) s es t) :
    TwoNode.deliver ⟨m, s, .started, rx⟩ (.busTx b) = some ⟨m, t, .matchedWrite, installed es rx⟩ := by
  simp [TwoNode.deliver, hmatch, hdir, moveS_of_emits h]

theorem deliver_address_read {b : Byte} (hmatch : addressMatches s.cfg b = true) (hdir : isReadAddress b = true)
    (h : Emits (.sByteR b) s es t) :
    TwoNode.deliver ⟨m, s, .started, rx⟩ (.busTx b) = some ⟨m, t, .matchedRead, installed es rx⟩ := by
  simp [TwoNode.deliver, hmatch, hdir, moveS_of_emits h]

theorem deliver_data {b : Byte} (h : Emits (.sByteW b) s es t) :
    TwoNode.deliver ⟨m, s, .matchedWrite, rx⟩ (.busTx b) = some ⟨m, t, .matchedWrite, installed es rx⟩ :=
  moveS_of_emits h

theorem deliver_busStop (h : Emits .sStop s es t) :
    TwoNode.deliver ⟨m, s, .matchedWrite, rx⟩ .busStop = some ⟨m, t, .idle, installed es rx⟩ := by
  simp only [TwoNode.deliver, moveS_of_emits h, Option.map_some]

end

/-! ## The states of the responder -/

/-- After the start condition. -/
def startSeen (s : State) : State :=
  State.observing { s with rsPhase := .addr, rsDir := .write, rsLocal := 0, rsRdptr := 0 } [] .none

/-- After a write-direction address byte in SYNC mode. -/
def writeAddressed (a : Byte) (s : State) : State :=
  State.observing { s with rsDir := .write, rsLocal := decodeLocal s.cfg a, rsPhase := .data } [] .none

/-- After a data byte that the PWM handler gives to channel `c`. -/
def channelSet (c : Channel) (v : Byte) (s : State) : State :=
  State.observing (callSetP v (callSel c s)) [.cmd s.rsLocal v] .none

/-- After the stop condition in SYNC mode. -/
def stopSeen (s : State) : State := State.observing { s with rsPhase := .none } [] .none

/-- After a read-direction address byte. -/
def entrySupplied (a : Byte) (s : State) : State :=
  State.observing
    { s with rsDir := .read, rsLocal := decodeLocal s.cfg a, rsRdptr := decodeLocal s.cfg a, rsPhase := .data }
    [.respTx (regRead (decodeLocal s.cfg a) s)] .none

section
variable {s : State} (hs : s.Ready)
include hs

theorem emits_startSeen : Emits .sStart s [] (startSeen s) := by
  obtain ⟨-, hstart⟩ := startRestartsTheTracking
  exact emits_of_exec (hstart s hs) rfl (ready_fault (s := s) hs)

theorem emits_writeAddressed (hsync : s.cfg.rxMode = .sync) (hph : s.rsPhase = .addr) (a : Byte) :
    Emits (.sByteW a) s [] (writeAddressed a s) := by
  obtain ⟨hbyte, -⟩ := writeAddressByteRecordsTheSubAddress s a hs hph
  exact emits_of_exec (hbyte hsync) rfl (ready_fault (s := s) hs)

theorem emits_channelSet (hsync : s.cfg.rxMode = .sync) (hpwm : s.chHandler = .pwm) (hph : s.rsPhase = .data)
    {c : Channel} (hc : channelOperand s.rsLocal = some c) (v : Byte) :
    Emits (.sByteW v) s [.cmd s.rsLocal v] (channelSet c v s) := by
  have hhandler : pwmHandler s.rsLocal v s = callSetP v (callSel c s) := by simp only [pwmHandler, hc]
  have hrule := (sByteWBody_of_data hph v).trans (writeData_of_pwm hsync hpwm rfl v)
  rw [hhandler] at hrule
  exact emits_of_exec (exec_ok (i := .sByteW v) hs rfl hrule) rfl (ready_fault (s := s) hs)

theorem emits_stopSeen (hsync : s.cfg.rxMode = .sync) : Emits .sStop s [] (stopSeen s) := by
  obtain ⟨-, hstop⟩ := stopEndsTheTransaction
  obtain ⟨hexec, -⟩ := hstop s hs
  exact emits_of_exec (hexec hsync) rfl (ready_fault (s := s) hs)

theorem emits_entrySupplied (hph : s.rsPhase = .addr) (a : Byte) :
    Emits (.sByteR a) s [.respTx (regRead (decodeLocal s.cfg a) s)] (entrySupplied a s) :=
  emits_of_exec (exec_ok (i := .sByteR a) hs rfl (sByteRBody_of_addr hph a)) rfl (ready_fault (s := s) hs)

end

/-! ## The runs -/

/-- The responder at the end of the write. -/
def writeReceived (c : Channel) (a v : Byte) (s : State) : State :=
  stopSeen (channelSet c v (writeAddressed a (startSeen s)))

/-- The elements of `t` that a write changes on the responder for channel `c` and value `v`, or leaves as in `s`. -/
structure WriteFrame (p : PerChannel) (s t : State) : Prop where
  fault : t.fault = s.fault
  cs : t.cs = s.cs
  iniState : t.iniState = s.iniState
  dsCurrent : t.dsCurrent = s.dsCurrent
  dsPending : t.dsPending = p

theorem WriteFrame.trans {p q : PerChannel} {s t u : State} (h : WriteFrame p s t) (h' : WriteFrame q t u) :
    WriteFrame q s u :=
  ⟨h'.fault.trans h.fault, h'.cs.trans h.cs, h'.iniState.trans h.iniState, h'.dsCurrent.trans h.dsCurrent,
    h'.dsPending⟩

/-- S is out of the transaction, and only channel `c` has another pending value. -/
theorem writeReceived_frame (c : Channel) (a v : Byte) (s : State) :
    WriteFrame (s.dsPending.set c v) s (writeReceived c a v s) := by
  have hstart : WriteFrame s.dsPending s (startSeen s) := ⟨rfl, rfl, rfl, rfl, rfl⟩
  have hbyte : WriteFrame s.dsPending (startSeen s) (writeAddressed a (startSeen s)) :=
    ⟨rfl, rfl, rfl, rfl, hstart.dsPending⟩
  have hset : WriteFrame (s.dsPending.set c v) (writeAddressed a (startSeen s))
      (channelSet c v (writeAddressed a (startSeen s))) :=
    ⟨rfl, rfl, rfl, rfl, congrArg (·.set c v) hbyte.dsPending⟩
  exact ((hstart.trans hbyte).trans hset).trans ⟨rfl, rfl, rfl, rfl, hset.dsPending⟩

section
variable {m s : State} (hm : m.Ready) (hs : s.Ready) (h2 : m.cfg.fieldCount = 2) (hq : m.cq = [])
  (hst : m.iniState = .addr)
include hm hs h2 hq hst

/-- A command prepared and armed on M, with no transaction on the bus: S has seen the start, and no byte waits. -/
theorem run_to_start (a v : Byte) (rx : Option Byte) (rest : List (Node × Word)) :
    TwoNode.run ((.master, encode (.cPrep2 a v)) :: (.master, encode .iArm) :: rest) ⟨m, s, .idle, rx⟩ =
      TwoNode.run rest ⟨armed (prepared a v m), startSeen s, .started, none⟩ := by
  have haddress := addressRun hm h2 hq hst a v 0
  have hne : m.iniState ≠ .dataIn := by simp [hst]
  have hprep : TwoNode.moveM _ ⟨m, s, .idle, rx⟩ = some ⟨prepared a v m, s, .idle, rx⟩ :=
    moveM_of_emits haddress.prep hne
  have harm : TwoNode.moveM _ ⟨prepared a v m, s, .idle, rx⟩ = _ :=
    (moveM_of_emits haddress.arm hne).trans (deliverAll_one (deliver_busStart (emits_startSeen hs)))
  rw [run_master hprep, run_master harm]

/-- A write: each event of M moves S one state on, and S's own events install no byte. -/
theorem run_write {a : Byte} (hmatch : addressMatches s.cfg a = true) (hsync : s.cfg.rxMode = .sync)
    (hpwm : s.chHandler = .pwm) (ha : isReadAddress a = false) {c : Channel}
    (hc : channelOperand (decodeLocal s.cfg a) = some c) (v r1 r2 r3 r4 : Byte) (rx : Option Byte) :
    TwoNode.run [(.master, encode (.cPrep2 a v)), (.master, encode .iArm), (.master, encode (.iStep r1)),
        (.master, encode (.iStep r2)), (.master, encode (.iStep r3)), (.master, encode (.iStep r4))]
      ⟨m, s, .idle, rx⟩ = some ⟨written a v m, writeReceived c a v s, .idle, none⟩ := by
  have hstart := emits_startSeen hs
  have hbyte := emits_writeAddressed hstart.ready hsync rfl a
  have hset := emits_channelSet hbyte.ready hsync hpwm rfl hc v
  have hend := emits_stopSeen hset.ready hsync
  have haddress := addressRun hm h2 hq hst a v r1
  have hwrite := writeRun haddress ha r2 r3 r4
  have h3 : TwoNode.moveM _ ⟨_, startSeen s, .started, none⟩ = _ :=
    (moveM_of_emits haddress.address (by simp [armed])).trans (deliverAll_one (deliver_address_write hmatch ha hbyte))
  have h4 : TwoNode.moveM _ ⟨_, writeAddressed a (startSeen s), .matchedWrite, none⟩ = _ :=
    (moveM_of_emits hwrite.value (by simp [addressed_iniState_write ha])).trans (deliverAll_one (deliver_data hset))
  have h5 : TwoNode.moveM _ ⟨_, channelSet c v (writeAddressed a (startSeen s)), .matchedWrite, none⟩ = _ :=
    (moveM_of_emits hwrite.stop (by simp [valuePlaced])).trans (deliverAll_one (deliver_busStop hend))
  have h6 : TwoNode.moveM _ ⟨_, writeReceived c a v s, .idle, none⟩ = some ⟨written a v m, _, _, _⟩ :=
    moveM_of_emits hwrite.done (by simp [stopAsserted])
  rw [run_to_start hm hs h2 hq hst, run_master h3]
  exact (run_master h4 _).trans ((run_master h5 _).trans (run_master h6 _))

/-- A read up to DATA_IN: S's entry is installed at the address byte, and waits for M. -/
theorem run_read {a : Byte} (hmatch : addressMatches s.cfg a = true) (ha : isReadAddress a = true) (p r1 r2 : Byte)
    (rx : Option Byte) :
    TwoNode.run [(.master, encode (.cPrep2 a p)), (.master, encode .iArm), (.master, encode (.iStep r1)),
        (.master, encode (.iStep r2))] ⟨m, s, .idle, rx⟩ =
      some ⟨readPrepared (addressed a p m), entrySupplied a (startSeen s), .matchedRead,
        some (regRead (decodeLocal s.cfg a) s)⟩ := by
  have hentry := emits_entrySupplied (emits_startSeen hs).ready rfl a
  have haddress := addressRun hm h2 hq hst a p r1
  have hprep := addressed_iniState_read ha p m
  have hread := emits_readPrepared haddress.address.ready h2 hprep rfl rfl r2
  have h3 : TwoNode.moveM _ ⟨_, startSeen s, .started, none⟩ = _ :=
    (moveM_of_emits haddress.address (by simp [armed])).trans (deliverAll_one (deliver_address_read hmatch ha hentry))
  have h4 : TwoNode.moveM _ ⟨_, entrySupplied a (startSeen s), .matchedRead, some (regRead (decodeLocal s.cfg a) s)⟩ =
      some ⟨readPrepared (addressed a p m), _, _, _⟩ :=
    (moveM_of_emits hread (by simp [hprep])).trans (deliverAll_one rfl)
  rw [run_to_start hm hs h2 hq hst, run_master h3]
  exact run_master h4 []

end

/-! ## The statements -/

/-- Settles O58: the run of the write, and what its last state says of each element named. -/
theorem masterWriteReachesTheRespondersChannel : Obligations.MasterWriteReachesTheRespondersChannel := by
  rintro ⟨m, s, link, rx⟩ a v r1 r2 r3 r4 c - hm hs rfl h2 hq hst hsync hpwm ha hmatch hc
  have hframe := writeReceived_frame c a v s
  have hm0 : (written a v m).fault = none := (written_fault a v m).trans (ready_fault hm)
  have hs0 : (writeReceived c a v s).fault = none := hframe.fault.trans (ready_fault hs)
  have hrun := run_write hm hs h2 hq hst hmatch hsync hpwm ha hc v r1 r2 r3 r4 rx
  refine ⟨_, hrun, hframe.dsPending, hframe.dsCurrent, rfl, rfl, rfl, rfl, hm0, hs0, rfl, fun hph ⟨_, hclean, _⟩ => ?_⟩
  refine ⟨⟨hm0, written_initiatorEndsAt a v m, hph⟩, ⟨hs0, ?_, rfl⟩, rfl⟩
  rw [State.initiatorEndsAt_none] at hclean ⊢
  rwa [hframe.iniState, hframe.cs]

/-- Settles O59: the run of the read, and the step in DATA_IN with the byte that waits, or another. -/
theorem masterReadReturnsTheExposedValue : Obligations.MasterReadReturnsTheExposedValue := by
  rintro ⟨m, s, link, rx⟩ a p r1 r2 v - hm hs rfl h2 hq hst hrh ha hmatch rfl
  have haddress := addressRun hm h2 hq hst a p r1
  have hread := emits_readPrepared haddress.address.ready h2 (addressed_iniState_read ha p m) rfl rfl r2
  obtain ⟨hdata, -⟩ := dataInStepDeliversTheResult _ (regRead (decodeLocal s.cfg a) s) hread.ready rfl
  have hresult := emits_of_exec (hdata hrh) rfl (ready_fault hread.ready)
  exact ⟨_, run_read hm hs h2 hq hst hmatch ha p r1 r2 rx, fun _ hne => moveM_dataIn_other hread.ready rfl hne, _,
    moveM_dataIn hresult hread.ready rfl, emitted_of_trace hresult.trace_eq, rfl⟩

end Sys2Proof.Machine
end
